-- ==== Sys2Proof/Word.lean ====
section
/-! DEFINITION. The block's data widths: bytes (rule R41) and 16-bit values (rule R7). All values are unsigned. -/

namespace Sys2Proof

/-- A byte, the unit of the transport and of every frame (rules R7, R41). -/
abbrev Byte := BitVec 8

/-- A 16-bit value: param2, the CRC, the length operand of CRC_COMPUTE (rules R7, R41). -/
abbrev Half := BitVec 16

end Sys2Proof
end

