-- ==== Sys2Proof/Syntax.lean ====
section
/-! DEFINITION. The requests of the block (rules R60, R61), one constructor per row of the opcode table, as the
typed records rule R60 lets a model take. Operands that are bytes or 16-bit values have those types (rule R62). -/

namespace Sys2Proof

/-- A request: a kind and the operands of that kind (rules R60, R61). -/
inductive Instr where
  /-- WAKE (rule R126). -/
  | wake
  /-- IDLE (rule R128). -/
  | idle
  /-- SEND_COMMAND (rule R152). -/
  | sendCommand (op p1 : Byte) (p2 : Half) (payload : List Byte)
  /-- CRC_CLEAR (rule R105). -/
  | crcClear
  /-- CRC_BYTE (rule R106). -/
  | crcByte (b : Byte)
  /-- CRC_COMPUTE (rule R107). -/
  | crcCompute (bytes : List Byte)
  /-- CHECK_RESPONSE (rule R181). -/
  | checkResponse (maxc : Byte) (bytes : List Byte)
deriving DecidableEq, Repr

end Sys2Proof
end

