-- ==== Sys2Proof/WellFormed.lean ====
section
/-! DEFINITION. Operand ranges (rule R62). The operand types hold every 8-bit and 16-bit operand in range, so
the checks are on the lengths of the three byte sequences. -/

namespace Sys2Proof

/-- Every operand is in the range rule R62 gives it: `n` is 8-bit, 0..255, and `L` is 16-bit, 0..65535. -/
def Instr.wellFormed : Instr → Bool
  | .wake => true
  | .idle => true
  | .sendCommand _ _ _ payload => decide (payload.length ≤ 255)
  | .crcClear => true
  | .crcByte _ => true
  | .crcCompute bytes => decide (bytes.length ≤ 65535)
  | .checkResponse _ bytes => decide (bytes.length ≤ 255)

end Sys2Proof
end

