-- ==== Sys2Proof/Decode.lean ====
section
/-! DEFINITION. The serialised form of requests (rules R60 to R62): byte order, tags, the decoder and, after it, the
encoder; and the reading of a word of spec/opcode_table.json. -/

namespace Sys2Proof

/-- The request kinds of rule R61. -/
inductive Kind where
  | wake
  | idle
  | sendCommand
  | crcClear
  | crcByte
  | crcCompute
  | checkResponse
deriving DecidableEq, Repr

/-- Why a byte sequence is not the serialised form of a request (rule R61). -/
inductive DecodeError where
  /-- No tag byte: fewer bytes than any kind needs. DEDUCED, log entry 5. -/
  | noTag
  /-- The tag is none of rule R61's. -/
  | reservedTag (tag : Byte)
  /-- "fewer operand bytes than its kind needs" (rule R61). -/
  | truncated (kind : Kind)
  /-- More bytes than the kind takes. DEDUCED, log entry 4. -/
  | trailing (kind : Kind)
deriving DecidableEq, Repr

/-- `le16(v)` of rule R8: the low byte, then the high byte (rule R43). -/
def le16 (v : Half) : List Byte := [v.extractLsb' 0 8, v.extractLsb' 8 8]

/-- The 16-bit value of two bytes, low byte first: `t0 | (t1 << 8)` (rule R43). -/
def fromLe16 (lo hi : Byte) : Half := lo.setWidth 16 ||| (hi.setWidth 16 <<< 8)

/-- The tag bytes of rule R61. -/
def Kind.tag : Kind → Byte
  | .wake          => 0x01#8
  | .idle          => 0x02#8
  | .sendCommand   => 0x03#8
  | .crcClear      => 0x10#8
  | .crcByte       => 0x11#8
  | .crcCompute    => 0x12#8
  | .checkResponse => 0x20#8

/-- Every kind, in the order of rule R61's table. -/
def allKinds : List Kind :=
  [.wake, .idle, .sendCommand, .crcClear, .crcByte, .crcCompute, .checkResponse]

/-- The kind a tag byte stands for; none for a reserved tag (rule R61). -/
def kindOfTag (tag : Byte) : Option Kind := allKinds.find? fun k => k.tag == tag

/-- A request's kind. -/
def Instr.kind : Instr → Kind
  | .wake => .wake
  | .idle => .idle
  | .sendCommand _ _ _ _ => .sendCommand
  | .crcClear => .crcClear
  | .crcByte _ => .crcByte
  | .crcCompute _ => .crcCompute
  | .checkResponse _ _ => .checkResponse

/-- The first `n` bytes and what follows them; none when there are fewer. -/
def takeBytes (n : Nat) (bytes : List Byte) : Option (List Byte × List Byte) :=
  if n ≤ bytes.length then some (bytes.take n, bytes.drop n) else none

/-- The operand bytes after the tag, in the order of rule R61, and what is left of the sequence; none when the
sequence has "fewer operand bytes than its kind needs". -/
def decodeOperands : Kind → List Byte → Option (Instr × List Byte)
  | .wake, rest => some (.wake, rest)
  | .idle, rest => some (.idle, rest)
  | .sendCommand, op :: p1 :: lo :: hi :: n :: rest =>
      (takeBytes n.toNat rest).map fun p => (.sendCommand op p1 (fromLe16 lo hi) p.1, p.2)
  | .sendCommand, _ => none
  | .crcClear, rest => some (.crcClear, rest)
  | .crcByte, b :: rest => some (.crcByte b, rest)
  | .crcByte, [] => none
  | .crcCompute, lo :: hi :: rest =>
      (takeBytes (fromLe16 lo hi).toNat rest).map fun p => (.crcCompute p.1, p.2)
  | .crcCompute, _ => none
  | .checkResponse, maxc :: n :: rest =>
      (takeBytes n.toNat rest).map fun p => (.checkResponse maxc p.1, p.2)
  | .checkResponse, _ => none

/-- The request a byte sequence is the serialised form of (rules R60, R61), or why it is none. -/
def decode : List Byte → Except DecodeError Instr
  | [] => .error .noTag
  | tag :: operands =>
    match kindOfTag tag with
    | none => .error (.reservedTag tag)
    | some k =>
      match decodeOperands k operands with
      | none => .error (.truncated k)
      | some (i, []) => .ok i
      | some (_, _ :: _) => .error (.trailing k)

/-- The operand bytes of a request, in the order of rule R61. -/
def encodeOperands : Instr → List Byte
  | .wake => []
  | .idle => []
  | .sendCommand op p1 p2 payload => [op, p1] ++ le16 p2 ++ [BitVec.ofNat 8 payload.length] ++ payload
  | .crcClear => []
  | .crcByte b => [b]
  | .crcCompute bytes => le16 (BitVec.ofNat 16 bytes.length) ++ bytes
  | .checkResponse maxc bytes => [maxc, BitVec.ofNat 8 bytes.length] ++ bytes

/-- The serialised form of a request: the tag byte, then the operand bytes (rules R60, R61). -/
def encode (i : Instr) : List Byte := i.kind.tag :: encodeOperands i

/-- How many bytes the request that begins with `bytes` takes, bytes that are not there counted as zero: one
for a reserved tag. -/
def requestLength (bytes : List Byte) : Nat :=
  let at_ (k : Nat) : Byte := bytes.getD k 0#8
  match kindOfTag (at_ 0) with
  | some .sendCommand   => 6 + (at_ 5).toNat
  | some .crcByte       => 2
  | some .crcCompute    => 3 + (fromLe16 (at_ 1) (at_ 2)).toNat
  | some .checkResponse => 3 + (at_ 2).toNat
  | _ => 1

/-- The bytes of a word of spec/opcode_table.json (bit 0 the least significant bit of the first byte) of `nbits`
bits, with every bit the request has above them zero. -/
def tableBytes (nbits w : Nat) : List Byte :=
  let given := (List.range ((nbits + 7) / 8)).map fun k => BitVec.ofNat 8 (w >>> (8 * k))
  let n := requestLength given
  (given ++ List.replicate n 0#8).take n

/-- The request the decoder reads from a word of spec/opcode_table.json. -/
def decodeTableWord (nbits w : Nat) : Option Instr := (decode (tableBytes nbits w)).toOption

end Sys2Proof
end

