-- ==== Sys2Proof/Config.lean ====
section
/-! DEFINITION. The configuration record (rules R6, R27) with the values the spec takes, the answers a transport
can give (rules R46, R47), and the free values those answers are drawn from. -/

namespace Sys2Proof

/-- FRAME_LAYOUT (rule R6): the layout of a command frame, rule R64 or rule R65. -/
inductive FrameLayout where
  | literal
  | device
deriving DecidableEq, Repr, Inhabited

/-- MAX_PAYLOAD (rule R6), a function from 8-bit opcodes to 0..248, as plain data: the bound of every opcode
that is not listed, and the opcodes with a bound of their own (the first entry of an opcode counts).
DESIGN CHOICE, log entry 20. -/
structure PayloadBound where
  standard : Fin 249
  special  : List (Byte × Fin 249)
deriving DecidableEq, Repr

/-- The parameters of rule R6 that a model may take as an argument. No request writes one (rule R27).
The constraints between fields are `Config.Valid` (Machine/ResponseCheck.lean). -/
structure Config where
  frameLayout  : FrameLayout
  waCommand    : Byte
  waIdle       : Byte
  maxPayload   : PayloadBound
  wakeAttempts : Nat
  /-- T_WLO_US, in microseconds. -/
  tWloUs       : Nat
  /-- T_WHI_US, in microseconds. -/
  tWhiUs       : Nat
  wakeAck      : List Byte
deriving DecidableEq, Repr

/-- CRC_POLY, fixed by rule R6. -/
def Config.crcPoly : Half := 0x8005#16

/-- CRC_INIT, fixed by rule R6. -/
def Config.crcInit : Half := 0x0000#16

/-- The spec value of every parameter (rule R6). Those the spec marks as general knowledge are UNVERIFIED, log entry
16. -/
def Config.spec : Config where
  frameLayout  := .literal
  waCommand    := 0x03#8
  waIdle       := 0x02#8
  maxPayload   := { standard := 248, special := [] }
  wakeAttempts := 3
  tWloUs       := 60
  tWhiUs       := 1500
  wakeAck      := [0x04#8, 0x11#8, 0x33#8, 0x43#8]

/-- The transport's answer to `Write` (rule R46). -/
inductive WriteAnswer where
  | ok
  | err
deriving DecidableEq, Repr, Inhabited

/-- The transport's answer to `Read` (rule R47). -/
inductive ReadAnswer where
  | data (bytes : List Byte)
  | err
deriving DecidableEq, Repr, Inhabited

/-- The answer to a `Read` that nothing has laid down: a free draw "of the environment" (rule R47; U2, U3, U4 of
93_implementation_defined.md). The argument is the number of free draws made before it. Log entry 6. -/
opaque Config.freeRead : Nat → ReadAnswer

/-- The answer to a `Write` that nothing has laid down: "a free draw of the environment under no law" (rule R46;
U4 of 93_implementation_defined.md). The argument is the number of free draws made before it. Log entry 6. -/
opaque Config.freeWrite : Nat → WriteAnswer

end Sys2Proof
end

