-- ==== Sys2Proof/Machine/State.lean ====
section
/-! DEFINITION. The state of the machine: the block state record of rule R20, the configuration it is
instantiated with (rule R27), and the model's own fields for what stands outside the block: the result handed back
(rule R31), the inputs not yet taken (rule R60) and the environment's answers (rules R46, R47). -/

namespace Sys2Proof.Machine

/-- The block's record of the chip's power state (rule R22). -/
inductive Belief where
  | sleep
  | idle
  | awake
deriving DecidableEq, Repr

/-- The reasons the block stops (rules R24, R202). -/
inductive FaultReason where
  /-- F_BUSY: a bus request arrived while `outstanding` = 1. -/
  | busy
  /-- F_RESERVED: a reserved tag, a truncated request or an operand out of range. -/
  | reserved
deriving DecidableEq, Repr

/-- A transport event (rule R25): a primitive with its arguments and the environment's answer. -/
inductive Event where
  | holdLow (us : Nat)
  | sleep (us : Nat)
  | write (bytes : List Byte) (outcome : WriteAnswer)
  | read (n : Fin 256) (outcome : ReadAnswer)
deriving DecidableEq, Repr

/-- The result codes of rule R200. The last three are never returned by the block (rule R211). -/
inductive ResultCode where
  | ok
  | transportError
  | wakeFailure
  | frameTooLarge
  | checksumMismatch
  | malformedResponse
  | chipStatusError
  | timeout
  | lockedZoneViolation
deriving DecidableEq, Repr

/-- The record a request returns (rule R31). -/
structure Result where
  code : ResultCode
  data : List Byte
deriving DecidableEq, Repr

/-- What reaches the block from outside: a serialised request (rule R60) or the reset event (rule R230).
Log entry 2. -/
inductive Input where
  | request (bytes : List Byte)
  | reset
deriving DecidableEq, Repr

/-- The transport and the chip, as the source of the answers to `Read` and `Write` (rules R46, R47): the answers
laid down for the coming primitives, and, past them, how many free values have been drawn. Log entry 6. -/
structure Environment where
  reads  : List ReadAnswer
  writes : List WriteAnswer
  draws  : Nat
deriving DecidableEq, Repr

/-- The machine. `crcReg` to `trace` are the block state of rule R20; `config` is the step's parameter (rule R27,
log entry 1); `result`, `inputs` and `env` are the model's own (log entries 9, 2, 6). -/
structure State where
  config      : Config
  /-- `crc_reg` (rule R21). -/
  crcReg      : Half
  /-- `belief` (rule R22). -/
  belief      : Belief
  /-- `outstanding` (rule R23). -/
  outstanding : Bool
  /-- `fault` (rule R24); none is NONE. -/
  fault       : Option FaultReason
  /-- `trace`, oldest first (rule R25). -/
  trace       : List Event
  /-- What the last request returned; none when it returned nothing. -/
  result      : Option Result
  /-- What has been issued and not yet taken, oldest first. -/
  inputs      : List Input
  env         : Environment
deriving DecidableEq, Repr

/-- Why the machine stops. -/
inductive Fault where
  /-- Raised by any request made, and by a step, while `fault` is not NONE: "While `fault` is not NONE, no request
  has a step" (rules R24, R202). Safe: the spec gives a stopped block no step either. -/
  | stopped (reason : FaultReason)
deriving DecidableEq, Repr

/-- Why the model gives no meaning. -/
inductive Refusal where
  /-- Raised by an arm of `exec` whose instruction has no meaning yet; no arm does so. Safe. -/
  | notModelled (mnemonic : String)
deriving DecidableEq, Repr

/-- The machine right after reset (rule R230), with the spec values of the configuration (rule R6), nothing
issued, nothing returned and no answer laid down (log entries 2, 6, 9). -/
def State.reset : State where
  config      := Config.spec
  crcReg      := Config.crcInit
  belief      := .sleep
  outstanding := false
  fault       := none
  trace       := []
  result      := none
  inputs      := []
  env         := { reads := [], writes := [], draws := 0 }

end Sys2Proof.Machine
end

