-- ==== Sys2Proof/Machine/Operands.lean ====
section
/-! DEFINITION. The operand forms. A request carries its operands by value (rule R61): there are no registers to
name and no addresses to form, and a sequence is the only operand with a range to check (rule R62). The one value
looked up by an operand is the payload bound of an opcode (rule R151). -/

namespace Sys2Proof.Machine

/-- The longest sequence an 8-bit length admits: the SEND_COMMAND payload and the CHECK_RESPONSE input (rule R62). -/
def maxShortSequence : Nat := 255

/-- The longest sequence the 16-bit length `L` of CRC_COMPUTE admits (rule R62). -/
def maxCrcSequence : Nat := 65535

/-- `MAX_PAYLOAD(op)` (rules R6, R151). -/
def maxPayloadOf (c : Config) (op : Byte) : Nat := ((c.maxPayload.special.lookup op).getD c.maxPayload.standard).val

end Sys2Proof.Machine
end

