-- ==== Sys2Proof/Machine/Ops.lean ====
section
/-! DEFINITION. The operations every request is made of: the environment's answers, the four transport primitives
(rules R9, R46 to R48), raising a fault (rule R202), returning a result (rule R31), the tests that stand before a
request's own work (rules R202, R205), and the reset event (rule R230). -/

namespace Sys2Proof.Machine

/-- The outcome of one request. -/
abbrev StepOutcome := Host.Outcome State Fault Refusal

/-! ### The environment's answers -/

/-- An answer to `Read(n)` holds at most `n` bytes (rule R47). Log entry 7. -/
def limitAnswer (n : Fin 256) : ReadAnswer → ReadAnswer
  | .data bytes => .data (bytes.take n.val)
  | .err => .err

/-- The answer to the next `Write`: the next one laid down, or a free value (rule R46). -/
def Environment.nextWrite (e : Environment) : WriteAnswer :=
  match e.writes with
  | answer :: _ => answer
  | [] => Config.freeWrite e.draws

/-- The environment after answering a `Write`. -/
def Environment.afterWrite (e : Environment) : Environment :=
  match e.writes with
  | _ :: rest => { e with writes := rest }
  | [] => { e with draws := e.draws + 1 }

/-- The answer to the next `Read(n)`: the next one laid down, or a free value (rule R47). -/
def Environment.nextRead (n : Fin 256) (e : Environment) : ReadAnswer :=
  match e.reads with
  | answer :: _ => limitAnswer n answer
  | [] => limitAnswer n (Config.freeRead e.draws)

/-- The environment after answering a `Read`. -/
def Environment.afterRead (e : Environment) : Environment :=
  match e.reads with
  | _ :: rest => { e with reads := rest }
  | [] => { e with draws := e.draws + 1 }

/-! ### Transport primitives: each appends exactly one event (rule R25) -/

/-- Append one event to the trace. -/
def emit (e : Event) (s : State) : State := { s with trace := s.trace ++ [e] }

/-- `HoldLow(d)` (rule R48). -/
def holdLow (us : Nat) (s : State) : State := emit (.holdLow us) s

/-- `Sleep(d)` (rule R48). -/
def sleepFor (us : Nat) (s : State) : State := emit (.sleep us) s

/-- `Write(s)`: one transaction and its answer (rule R46). That there is an answer: log entry 8. What a failed write
delivered is not represented: log entry 19. -/
def writeBytes (bytes : List Byte) (s : State) : WriteAnswer × State :=
  (s.env.nextWrite, emit (.write bytes s.env.nextWrite) { s with env := s.env.afterWrite })

/-- `Read(n)`: the answer (rule R47). -/
def readBytes (n : Fin 256) (s : State) : ReadAnswer × State :=
  (s.env.nextRead n, emit (.read n (s.env.nextRead n)) { s with env := s.env.afterRead })

/-! ### Ends of a request -/

/-- `return (code, data)` (rule R31). -/
def returnResult (r : Result) (s : State) : State := { s with result := some r }

/-- `raise Fault(reason)`: "sets `fault <- reason` and ends the request. No result is returned, no transport event
is issued by that request, and no other field changes" (rule R202). DEDUCED, log entry 13; `result`, log entry 9. -/
def raiseFault (reason : FaultReason) (s : State) : State := { s with fault := some reason, result := none }

/-! ### Tests before a request's own work -/

/-- "While `fault` is not NONE, no request has a step" (rules R24, R202). -/
def whenRunning (s : State) (go : StepOutcome) : StepOutcome :=
  match s.fault with
  | none => go
  | some reason => .fault (.stopped reason)

/-- An operand out of range "faults with `F_RESERVED`" (rule R62), before any other test (rule R205).
DEDUCED, log entry 14. -/
def whenInRange (inRange : Bool) (s : State) (go : StepOutcome) : StepOutcome :=
  if inRange then go else .next (raiseFault .reserved s)

/-- `if outstanding = 1: raise Fault(F_BUSY)`, before any bus event (rules R126, R128, R152, R202). -/
def whenNotOutstanding (s : State) (go : StepOutcome) : StepOutcome :=
  if s.outstanding then .next (raiseFault .busy s) else go

/-! ### Reset -/

/-- The reset event (rule R230): every field of the block at its reset value, the configuration kept, no transport
event issued, the chip's state not changed. What has been issued and not taken stays (log entry 12). -/
def resetBlock (s : State) : State :=
  { s with
    crcReg      := Config.crcInit
    belief      := .sleep
    outstanding := false
    fault       := none
    trace       := []
    result      := none }

end Sys2Proof.Machine
end

