-- ==== Sys2Proof/Machine/Crc.lean ====
section
/-! DEFINITION. The CRC-16 generator: the function (rules R100 to R104) and the three CRC requests (rules R105 to
R107). -/

namespace Sys2Proof.Machine

/-- One bit of rule R101: the incoming bit against the register's top bit, the shift, then the polynomial. -/
def crcBit (c : Half) (d : Bool) : Half :=
  if (d ^^ c.getLsbD 15) = true then (c <<< 1) ^^^ Config.crcPoly else c <<< 1

/-- The bits of a byte in the order the CRC takes them: "bit 0, then bit 1, up to bit 7" (rule R42). -/
def bitsOf (d : Byte) : List Bool := [0, 1, 2, 3, 4, 5, 6, 7].map d.getLsbD

/-- `crc_step(c, d)` (rule R101). -/
def crcStep (c : Half) (d : Byte) : Half := (bitsOf d).foldl crcBit c

/-- `crc16(s)` (rule R102). -/
def crc16 (s : List Byte) : Half := s.foldl crcStep Config.crcInit

/-- What a CRC request does: `crc_reg <- v`, then `return (OK, le16(crc_reg))` (rules R105 to R107). -/
def setCrc (v : Half) (s : State) : State := returnResult ⟨.ok, le16 v⟩ { s with crcReg := v }

/-- CRC_CLEAR (rule R105). -/
def execCrcClear (s : State) : StepOutcome :=
  whenRunning s <| .next (setCrc Config.crcInit s)

/-- CRC_BYTE (rule R106). -/
def execCrcByte (b : Byte) (s : State) : StepOutcome :=
  whenRunning s <| .next (setCrc (crcStep s.crcReg b) s)

/-- CRC_COMPUTE (rule R107). -/
def execCrcCompute (bytes : List Byte) (s : State) : StepOutcome :=
  whenRunning s <| whenInRange (bytes.length ≤ maxCrcSequence) s <| .next (setCrc (crc16 bytes) s)

end Sys2Proof.Machine
end

