-- ==== Sys2Proof/Machine/ResponseCheck.lean ====
section
/-! DEFINITION. The response frame check (rules R71, R180), CHECK_RESPONSE (rule R181), and the constraints on the
configuration, one of which is that check (rule R6). -/

namespace Sys2Proof.Machine

/-- `frame_check(maxc, r)` (rule R180): the first test that fails decides. -/
def frameCheck (maxc : Byte) (r : List Byte) : Result :=
  match r with
  | [] => ⟨.malformedResponse, []⟩
  | count :: _ =>
    let c := count.toNat
    if c < 4 ∨ c > maxc.toNat then ⟨.malformedResponse, []⟩
    else if r.length ≠ c then ⟨.malformedResponse, []⟩
    else if le16 (crc16 (r.take (c - 2))) ≠ r.drop (c - 2) then ⟨.checksumMismatch, []⟩
    else ⟨.ok, (r.take (c - 2)).drop 1⟩

/-- What CHECK_RESPONSE does: `outstanding <- 0`, then the check's verdict (rule R181). -/
def checkResponse (maxc : Byte) (bytes : List Byte) (s : State) : State :=
  returnResult (frameCheck maxc bytes) { s with outstanding := false }

/-- CHECK_RESPONSE (rule R181). It is "allowed while `outstanding` = 1". -/
def execCheckResponse (maxc : Byte) (bytes : List Byte) (s : State) : StepOutcome :=
  whenRunning s <| whenInRange (bytes.length ≤ maxShortSequence) s <| .next (checkResponse maxc bytes s)

/-- The constraints rule R6 puts on the parameters (rule R232, point 2). That a payload bound is at most 248 is in
its type. Rule R151's 128 bytes for the Verify opcode are left out (log entry 10). -/
abbrev configValid (c : Config) : Prop :=
  c.waCommand ≠ c.waIdle ∧ 1 ≤ c.wakeAttempts ∧ 1 ≤ c.tWloUs ∧ 1 ≤ c.tWhiUs ∧
    c.wakeAck.head? = some 0x04#8 ∧ (frameCheck 4#8 c.wakeAck).code = .ok

end Sys2Proof.Machine
end

