-- ==== Sys2Proof/Machine/WakeIdle.lean ====
section
/-! DEFINITION. The wake/idle state machine: the wake handshake (rules R122 to R125), WAKE (rule R126) and IDLE
(rule R128). No definition here reads `belief` (rules R22, R127). -/

namespace Sys2Proof.Machine

/-- `ack_ok(r)` (rule R124): a valid 4-byte frame, and `WAKE_ACK` byte for byte. -/
def ackOk (c : Config) (r : List Byte) : Bool := (frameCheck 4#8 r).code == .ok && r == c.wakeAck

/-- The bytes of a read that is an acknowledgment; a read error is a failed attempt (rule R123). -/
def acknowledgment (c : Config) : ReadAnswer → Option (List Byte)
  | .data r => if ackOk c r then some r else none
  | .err => none

/-- The wake pulse (rules R70, R122). -/
def wakePulse (s : State) : State := sleepFor s.config.tWhiUs (holdLow s.config.tWloUs s)

/-- `wake_attempt()` (rule R123); none is FAIL. -/
def wakeAttempt (s : State) : Option (List Byte) × State :=
  let answer := readBytes 4 (wakePulse s)
  (acknowledgment s.config answer.1, answer.2)

/-- At most `attempts` attempts, up to the first that succeeds (rule R125). -/
def tryWake : (attempts : Nat) → State → Result × State
  | 0, s => (⟨.wakeFailure, []⟩, { s with belief := .sleep })
  | k + 1, s =>
    match (wakeAttempt s).1 with
    | some r => (⟨.ok, r⟩, { (wakeAttempt s).2 with belief := .awake })
    | none => tryWake k (wakeAttempt s).2

/-- `wake_handshake()` (rule R125). -/
def wakeHandshake (s : State) : Result × State := tryWake s.config.wakeAttempts s

/-- What WAKE does (rule R126). -/
def wake (s : State) : State := returnResult (wakeHandshake s).1 (wakeHandshake s).2

/-- WAKE (rule R126). -/
def execWake (s : State) : StepOutcome :=
  whenRunning s <| whenNotOutstanding s <| .next (wake s)

/-- What IDLE does (rule R128); the frame is rule R69's. -/
def idle (s : State) : State :=
  let w := writeBytes [s.config.waIdle] s
  match w.1 with
  | .ok => returnResult ⟨.ok, []⟩ { w.2 with belief := .idle }
  | .err => returnResult ⟨.transportError, []⟩ w.2

/-- IDLE (rule R128). -/
def execIdle (s : State) : StepOutcome :=
  whenRunning s <| whenNotOutstanding s <| .next (idle s)

end Sys2Proof.Machine
end

