-- ==== Sys2Proof/Machine/Framer.lean ====
section
/-! DEFINITION. The command framer: `build_frame` (rules R64 to R68, R150), its inverse (rule R156) and
SEND_COMMAND (rule R152). Operand values are framed unchanged (rule R155). -/

namespace Sys2Proof.Machine

/-- The count byte of a command frame, `7 + n`, 8-bit (rule R66). -/
def countByte (payload : List Byte) : Byte := BitVec.ofNat 8 (7 + payload.length)

/-- `build_frame(op, p1, p2, payload)` (rule R150), in the layout the configuration names (rules R64, R65). -/
def buildFrame (c : Config) (op p1 : Byte) (p2 : Half) (payload : List Byte) : List Byte :=
  let body := [op, p1] ++ le16 p2 ++ payload
  match c.frameLayout with
  | .literal =>
    let pre := [countByte payload, c.waCommand] ++ body
    pre ++ le16 (crc16 pre)
  | .device =>
    let pre := [countByte payload] ++ body
    [c.waCommand] ++ pre ++ le16 (crc16 pre)

/-- Where the count byte stands in a command frame (rules R64, R65). -/
def countOffset : FrameLayout → Nat
  | .literal => 0
  | .device => 1

/-- Where the word-address marker stands in a command frame (rules R64, R65). -/
def markerOffset : FrameLayout → Nat
  | .literal => 1
  | .device => 0

/-- The fields of a command frame, as `parse_frame` gives them back (rule R156). -/
structure CommandFields where
  op      : Byte
  p1      : Byte
  p2      : Half
  payload : List Byte
deriving DecidableEq, Repr

/-- The bytes of a command frame that its CRC covers (rules R64, R65, R156). -/
def crcCovered (layout : FrameLayout) (f : List Byte) : List Byte :=
  match layout with
  | .literal => f.take (f.length - 2)
  | .device => (f.take (f.length - 2)).drop 1

/-- `parse_frame(f)` (rule R156); none is BAD. "The block does not contain `parse_frame`; no request uses it".
Rule R156 gives it for sequences of 8 bytes or more; BAD for a shorter one is a DESIGN CHOICE, log entry 23. -/
def parseFrame (c : Config) (f : List Byte) : Option CommandFields :=
  if f.length < 8 then none
  else if (f.getD (countOffset c.frameLayout) 0#8).toNat ≠ f.length - 1 then none
  else if f.getD (markerOffset c.frameLayout) 0#8 ≠ c.waCommand then none
  else if le16 (crc16 (crcCovered c.frameLayout f)) ≠ f.drop (f.length - 2) then none
  else some
    { op := f.getD 2 0#8, p1 := f.getD 3 0#8, p2 := fromLe16 (f.getD 4 0#8) (f.getD 5 0#8)
      payload := (f.take (f.length - 2)).drop 6 }

/-- The part of SEND_COMMAND after a successful handshake: the frame is written, and only an `ok` makes the
command outstanding (rule R152). -/
def transmit (frame : List Byte) (s : State) : State :=
  let w := writeBytes frame s
  match w.1 with
  | .err => returnResult ⟨.transportError, []⟩ w.2
  | .ok => returnResult ⟨.ok, frame⟩ { w.2 with outstanding := true }

/-- What SEND_COMMAND does (rule R152): the size check, the handshake, the frame. -/
def sendCommand (op p1 : Byte) (p2 : Half) (payload : List Byte) (s : State) : State :=
  if payload.length > maxPayloadOf s.config op then returnResult ⟨.frameTooLarge, []⟩ s
  else
    let handshake := wakeHandshake s
    if handshake.1.code = .wakeFailure then returnResult ⟨.wakeFailure, []⟩ handshake.2
    else transmit (buildFrame s.config op p1 p2 payload) handshake.2

/-- SEND_COMMAND (rule R152). -/
def execSendCommand (op p1 : Byte) (p2 : Half) (payload : List Byte) (s : State) : StepOutcome :=
  whenRunning s <| whenInRange (payload.length ≤ maxShortSequence) s <|
    whenNotOutstanding s <| .next (sendCommand op p1 p2 payload s)

end Sys2Proof.Machine
end

