-- ==== Sys2Proof/Machine/Dispatch.lean ====
section
/-! DEFINITION. Which meaning a request has: one arm per constructor of Instr (rule R61). -/

namespace Sys2Proof.Machine

def exec (i : Instr) (s : State) : Host.Outcome State Fault Refusal :=
  match i with
  | .wake => Sys2Proof.Machine.execWake s
  | .idle => Sys2Proof.Machine.execIdle s
  | .sendCommand op p1 p2 payload => Sys2Proof.Machine.execSendCommand op p1 p2 payload s
  | .crcClear => Sys2Proof.Machine.execCrcClear s
  | .crcByte b => Sys2Proof.Machine.execCrcByte b s
  | .crcCompute bytes => Sys2Proof.Machine.execCrcCompute bytes s
  | .checkResponse maxc bytes => Sys2Proof.Machine.execCheckResponse maxc bytes s

end Sys2Proof.Machine
end

