-- ==== Sys2Proof/Machine/Port.lean ====
section
/-! DEFINITION. The request port: how the next input is taken (rules R28, R60) and, for a request, decoded
(rule R61). Step.lean only calls it. -/

namespace Sys2Proof.Machine

/-- What taking the next input comes to: the whole step, or a request to run in the state it was taken from. -/
inductive Taken where
  | done (outcome : StepOutcome)
  | run (i : Instr) (s : State)

/-- Take the next input. A reset is taken in every state (rule R230). In a stopped block nothing else has a step
(rule R202; with nothing issued, log entry 11). With nothing issued the block waits (log entry 3). A running block takes
a request from the port whatever becomes of it; a malformed one "faults with `F_RESERVED`" (rule R61). A request issued
to a stopped block stays ahead in the port, so a reset issued behind it is not reached: the spec orders a reset and a
request that has no step nowhere. DESIGN CHOICE, log entry 22. -/
def takeInput (s : State) : Taken :=
  match s.inputs with
  | .reset :: rest => .done (.next (resetBlock { s with inputs := rest }))
  | [] => .done (whenRunning s (.next s))
  | .request bytes :: rest =>
    match decode bytes with
    | .ok i => .run i { s with inputs := rest }
    | .error _ => .done (whenRunning s (.next (raiseFault .reserved { s with inputs := rest })))

/-- Issue a request ahead of everything already issued. -/
def issueFirst (bytes : List Byte) (s : State) : State := { s with inputs := .request bytes :: s.inputs }

end Sys2Proof.Machine
end

