-- ==== Sys2Proof/Machine/Step.lean ====
section
/-! DEFINITION. One step of the machine: one input taken, and for a request its meaning run to its end
(rule R5: "Each request is one atomic step of the block"). -/

namespace Sys2Proof.Machine

/-- One step. -/
def step (s : State) : Host.Outcome State Fault Refusal :=
  match takeInput s with
  | .done outcome => outcome
  | .run i t => exec i t

/-- `s` with the request of a word of spec/opcode_table.json issued as the next one (log entry 2). -/
def State.withFetchWord (s : State) (nbits w : Nat) : State := issueFirst (tableBytes nbits w) s

end Sys2Proof.Machine
end

