-- ==== Sys2Proof/Machine/Assembler.lean ====
section
/-! DEFINITION. The textual form of requests (rule R63), read from characters to a request. "Each text line assembles
to the byte form of rule R61." There are no pseudo-instructions. No definition of the step uses this file.
How a line is cut into tokens is a DESIGN CHOICE (log entry 18). -/

namespace Sys2Proof.Machine

/-- The parts of a text line. -/
inductive Token where
  | word (chars : List Char)
  | comma
  | opening
  | closing
deriving DecidableEq, Repr

/-- A finished word, held in reverse, as tokens. -/
def finishWord : List Char → List Token
  | [] => []
  | c :: cs => [.word (c :: cs).reverse]

/-- A text line cut into tokens; `word` holds the characters of the unfinished word in reverse. -/
def tokenize (word : List Char) : List Char → List Token
  | [] => finishWord word
  | ' ' :: rest => finishWord word ++ tokenize [] rest
  | ',' :: rest => finishWord word ++ .comma :: tokenize [] rest
  | '[' :: rest => finishWord word ++ .opening :: tokenize [] rest
  | ']' :: rest => finishWord word ++ .closing :: tokenize [] rest
  | c :: rest => tokenize (c :: word) rest

/-- The value of a hex digit. -/
def hexDigit (c : Char) : Option Nat :=
  let v := c.toNat
  if 48 ≤ v ∧ v ≤ 57 then some (v - 48)
  else if 65 ≤ v ∧ v ≤ 70 then some (v - 55)
  else if 97 ≤ v ∧ v ≤ 102 then some (v - 87)
  else none

/-- The value of a sequence of hex digits, continuing from `high`. -/
def hexValue (high : Nat) : List Char → Option Nat
  | [] => some high
  | c :: rest =>
    match hexDigit c with
    | some v => hexValue (16 * high + v) rest
    | none => none

/-- A number of at most `width` bits: "hex with `0x`" (rule R63). -/
def number (width : Nat) : List Char → Option (BitVec width)
  | '0' :: 'x' :: c :: rest =>
    match hexValue 0 (c :: rest) with
    | some v => if v < 2 ^ width then some (BitVec.ofNat width v) else none
    | none => none
  | _ => none

/-- A byte of a byte list: a number, "or bare two-digit hex" (rule R63). -/
def listedByte : Token → Option Byte
  | .word [a, b] => (hexValue 0 [a, b]).map (BitVec.ofNat 8)
  | .word w => number 8 w
  | _ => none

/-- A byte list up to the end of the line. -/
def byteList : List Token → Option (List Byte)
  | [] => some []
  | t :: rest =>
    match listedByte t, byteList rest with
    | some b, some bs => some (b :: bs)
    | _, _ => none

/-- A byte list up to the closing bracket that ends the line. -/
def bracketedBytes (tokens : List Token) : Option (List Byte) :=
  if tokens.getLast? = some .closing then byteList tokens.dropLast else none

/-- The request of a text line's tokens (rule R63). -/
def parseLine : List Token → Option Instr
  | [.word ['W', 'A', 'K', 'E']] => some .wake
  | [.word ['I', 'D', 'L', 'E']] => some .idle
  | [.word ['C', 'R', 'C', '.', 'C', 'L', 'R']] => some .crcClear
  | [.word ['C', 'R', 'C', '.', 'B'], .word b] => (number 8 b).map .crcByte
  | .word ['C', 'R', 'C', '.', 'S', 'E', 'Q'] :: .opening :: rest => (bracketedBytes rest).map .crcCompute
  | .word ['C', 'H', 'E', 'C', 'K'] :: .word maxc :: .comma :: .opening :: rest =>
    match number 8 maxc, bracketedBytes rest with
    | some maxc, some bytes => some (.checkResponse maxc bytes)
    | _, _ => none
  | .word ['S', 'E', 'N', 'D'] :: .word op :: .comma :: .word p1 :: .comma :: .word p2 :: rest =>
    match number 8 op, number 8 p1, number 16 p2 with
    | some op, some p1, some p2 =>
      match rest with
      | [] => some (.sendCommand op p1 p2 [])
      | .comma :: b :: bytes => (byteList (b :: bytes)).map (.sendCommand op p1 p2)
      | _ => none
    | _, _, _ => none
  | _ => none

/-- The byte form a text line assembles to (rule R63); none for a line that is no request's textual form or whose
operands are out of range (rule R62). -/
def assemble (line : List Char) : Option (List Byte) :=
  match parseLine (tokenize [] line) with
  | some i => if i.wellFormed then some (encode i) else none
  | none => none

end Sys2Proof.Machine
end

