-- ==== Sys2Proof/Machine/Chip.lean ====
section
/-! DEFINITION. The chip as the block's contract describes it (rules R120, R121) and the informative tables of its
opcodes and status codes (rules R75, R76). The chip is an external agent: "This is the contract the block is built
against, not a rule of the block's step" (rule R121), and "no block rule depends on" the tables (rules R75, R76), so
no definition of the step uses this file. DESIGN CHOICE, log entry 17. -/

namespace Sys2Proof.Machine

/-- The chip's power states (rule R120): environment state, hidden from the block (rule R29). -/
inductive ChipPower where
  | sleep
  | idle
  | awake
deriving DecidableEq, Repr

/-- What moves the chip between power states (rule R121). -/
inductive ChipEvent where
  | wakePulse
  | idleByte
  | timeout
  | powerOn
deriving DecidableEq, Repr

/-- The chip's transitions "as far as the source gives them" (rule R121); none where it gives no transition (what an
idle byte does in Sleep or Idle, a timeout in Sleep). -/
def ChipPower.next : ChipPower → ChipEvent → Option ChipPower
  | _, .powerOn => some .sleep
  | _, .wakePulse => some .awake
  | .awake, .idleByte => some .idle
  | .awake, .timeout => some .sleep
  | .idle, .timeout => some .sleep
  | .sleep, .idleByte => none
  | .idle, .idleByte => none
  | .sleep, .timeout => none

/-- Answers of the cooperative environment (rule R121) to the coming primitives: `reads` reads that return `WAKE_ACK`
and `writes` writes that return `ok`. A choice for test vectors, "not a law". -/
def cooperative (c : Config) (reads writes : Nat) : Environment where
  reads := List.replicate reads (.data c.wakeAck)
  writes := List.replicate writes .ok
  draws := 0

/-- The commands rule R75 names. -/
inductive ChipCommand where
  | read
  | write
  | nonce
  | lock
  | random
  | info
  | genKey
  | sign
  | ecdh
  | verify
  | aes
deriving DecidableEq, Repr

/-- Their opcodes (rule R75, informative). -/
def ChipCommand.opcode : ChipCommand → Byte
  | .read   => 0x02#8
  | .write  => 0x12#8
  | .nonce  => 0x16#8
  | .lock   => 0x17#8
  | .random => 0x1B#8
  | .info   => 0x30#8
  | .genKey => 0x40#8
  | .sign   => 0x41#8
  | .ecdh   => 0x43#8
  | .verify => 0x45#8
  | .aes    => 0x51#8

/-- The zones a Read names in param1 (rule R75, informative). -/
inductive Zone where
  | config
  | otp
  | data
deriving DecidableEq, Repr

/-- Read's param1: the zone code, with `0x80` for a 32-byte read (rule R75, informative). -/
def readParam1 (zone : Zone) (wide : Bool) : Byte :=
  (match zone with | .config => 0x00#8 | .otp => 0x01#8 | .data => 0x02#8) ||| (if wide then 0x80#8 else 0x00#8)

/-- The status codes rule R76 names. -/
inductive ChipStatus where
  | success
  | miscompare
  | parseError
  | eccFault
  | executionError
  | afterWake
  | watchdog
  | communicationError
deriving DecidableEq, Repr

/-- Their values (rule R76, informative). -/
def ChipStatus.code : ChipStatus → Byte
  | .success            => 0x00#8
  | .miscompare         => 0x01#8
  | .parseError         => 0x03#8
  | .eccFault           => 0x05#8
  | .executionError     => 0x0F#8
  | .afterWake          => 0x11#8
  | .watchdog           => 0xEE#8
  | .communicationError => 0xFF#8

end Sys2Proof.Machine
end

