-- ==== Sys2Proof/Machine/Flags.lean ====
section
/-! DEFINITION. The block has no condition codes or arithmetic flags (rule R30). Its status bits are `outstanding`
and `fault`; this file gives the encodings of the fields the spec numbers: `outstanding` (rule R23), `belief`
(rule R22) and the result code (rule R200). -/

namespace Sys2Proof.Machine

/-- `outstanding` as its bit (rule R23). -/
def outstandingBit (s : State) : BitVec 1 := BitVec.ofBool s.outstanding

/-- `belief` as a 2-bit field: "SLEEP = 0, IDLE = 1, AWAKE = 2" (rule R22). -/
def Belief.toBits : Belief → BitVec 2
  | .sleep => 0#2
  | .idle  => 1#2
  | .awake => 2#2

/-- The belief a 2-bit field holds; none for 3, which "is never held" (rule R22, U9). -/
def Belief.ofBits (v : BitVec 2) : Option Belief := [Belief.sleep, .idle, .awake].find? fun b => b.toBits == v

/-- The 4-bit result codes (rule R200). -/
def ResultCode.toBits : ResultCode → BitVec 4
  | .ok                  => 0x0#4
  | .transportError      => 0x1#4
  | .wakeFailure         => 0x2#4
  | .frameTooLarge       => 0x3#4
  | .checksumMismatch    => 0x4#4
  | .malformedResponse   => 0x5#4
  | .chipStatusError     => 0x6#4
  | .timeout             => 0x7#4
  | .lockedZoneViolation => 0x8#4

/-- The result code of a 4-bit number; none for the reserved 0x9 to 0xF (rule R200, U8). -/
def ResultCode.ofBits (v : BitVec 4) : Option ResultCode :=
  [ResultCode.ok, .transportError, .wakeFailure, .frameTooLarge, .checksumMismatch, .malformedResponse,
    .chipStatusError, .timeout, .lockedZoneViolation].find? fun c => c.toBits == v

/-- The codes the block may return; the other three are reserved for an enclosing model (rule R211). -/
def ResultCode.ofBlock : ResultCode → Bool
  | .ok | .transportError | .wakeFailure | .frameTooLarge | .checksumMismatch | .malformedResponse => true
  | .chipStatusError | .timeout | .lockedZoneViolation => false

end Sys2Proof.Machine
end

