-- ==== Sys2Proof/Safety.lean ====
section
/-! DEFINITION. The notions claims are stated in: what a good run is, the events a request issues, the answers the
environment is going to give, what bus traces the block can produce, and the invariant of the machine. -/

namespace Sys2Proof

/-- The request uses the bus: WAKE, IDLE and SEND_COMMAND (rule R23). -/
def Instr.usesBus : Instr → Bool
  | .wake | .idle | .sendCommand _ _ _ _ => true
  | .crcClear | .crcByte _ | .crcCompute _ | .checkResponse _ _ => false

end Sys2Proof

namespace Sys2Proof.Machine

/-- The block has not stopped: "the faulted state is never a normal end of a run" (rule R202). -/
abbrev Running (s : State) : Prop := s.fault = none

/-- A bus request may be made (rule R235). -/
abbrev BusFree (s : State) : Prop := s.fault = none ∧ s.outstanding = false

/-- The `k`-th answer from now to a `Read(n)`, counting from 0, when nothing but reads is asked in between. -/
def readAt (n : Fin 256) : (k : Nat) → Environment → ReadAnswer
  | 0, e => e.nextRead n
  | k + 1, e => readAt n k e.afterRead

/-- The environment after answering `k` reads. -/
def afterReads : (k : Nat) → Environment → Environment
  | 0, e => e
  | k + 1, e => afterReads k e.afterRead

/-- The events of one wake attempt whose read is answered by `answer` (rule R123). -/
def attemptEvents (c : Config) (answer : ReadAnswer) : List Event :=
  [.holdLow c.tWloUs, .sleep c.tWhiUs, .read 4 answer]

/-- The events of the first `k` wake attempts from an environment. -/
def handshakeEvents (c : Config) (e : Environment) (k : Nat) : List Event :=
  (List.range k).flatMap fun j => attemptEvents c (readAt 4 j e)

/-- Attempt `k` (counting from 1) of a handshake started in `s` is its first success (rule R125). -/
def WakesAt (s : State) (k : Nat) : Prop :=
  1 ≤ k ∧ k ≤ s.config.wakeAttempts ∧ readAt 4 (k - 1) s.env = .data s.config.wakeAck ∧
    ∀ j, j < k - 1 → readAt 4 j s.env ≠ .data s.config.wakeAck

/-- No attempt of a handshake started in `s` succeeds (rule R125). -/
def NeverWakes (s : State) : Prop :=
  ∀ j, j < s.config.wakeAttempts → readAt 4 j s.env ≠ .data s.config.wakeAck

/-- A state after a handshake started in `s` that made `k` attempts: the events, the environment, and the belief. -/
def afterHandshake (k : Nat) (b : Belief) (s : State) : State :=
  { s with trace := s.trace ++ handshakeEvents s.config s.env k, env := afterReads k s.env, belief := b }

/-- The answer read holds at most four bytes, or is an error (rule R47 with n = 4). -/
def shortAnswer : ReadAnswer → Prop
  | .data bytes => bytes.length ≤ 4
  | .err => True

/-- The bus traces of the block: wake attempts (rule R123), idle frames (rule R69), and command frames, each right
after a wake attempt that read `WAKE_ACK` (rule R152). -/
inductive BusTrace (c : Config) : List Event → Prop where
  | empty : BusTrace c []
  | attempt (tr : List Event) (answer : ReadAnswer) :
      BusTrace c tr → shortAnswer answer → BusTrace c (tr ++ attemptEvents c answer)
  | idleFrame (tr : List Event) (outcome : WriteAnswer) :
      BusTrace c tr → BusTrace c (tr ++ [.write [c.waIdle] outcome])
  | commandFrame (tr : List Event) (op p1 : Byte) (p2 : Half) (payload : List Byte) (outcome : WriteAnswer) :
      BusTrace c tr → payload.length ≤ maxPayloadOf c op →
      BusTrace c (tr ++ attemptEvents c (.data c.wakeAck) ++ [.write (buildFrame c op p1 p2 payload) outcome])

/-- What one event says of the chip: a read of `WAKE_ACK` that it is awake, any other read that it sleeps, an idle
frame that was written that it is idle (rule R129). -/
def beliefStep (c : Config) (b : Belief) : Event → Belief
  | .read _ answer => if answer = .data c.wakeAck then .awake else .sleep
  | .write bytes outcome => if bytes = [c.waIdle] ∧ outcome = .ok then .idle else b
  | .holdLow _ => b
  | .sleep _ => b

/-- The belief a bus trace leads to from reset's SLEEP (rules R22, R129). -/
def beliefOf (c : Config) (tr : List Event) : Belief := tr.foldl (beliefStep c) .sleep

/-- The last event is a command frame that was written (rule R23). -/
def EndsInCommand (c : Config) (tr : List Event) : Prop :=
  ∃ before op p1 p2 payload, tr = before ++ [.write (buildFrame c op p1 p2 payload) .ok]

/-- A result the block may return: one of its own codes (rules R200, R211), and no data with an error (rule R201). -/
def GoodResult (r : Result) : Prop := r.code.ofBlock = true ∧ (r.code ≠ .ok → r.data = [])

/-- The invariant of the machine. -/
structure BlockInv (s : State) : Prop where
  /-- The configuration meets its constraints (rule R232). -/
  config      : configValid s.config
  /-- The trace is one the block's requests can produce. -/
  trace       : BusTrace s.config s.trace
  /-- `belief` is what the trace says (rule R129). -/
  belief      : s.belief = beliefOf s.config s.trace
  /-- `outstanding` means that the last thing on the bus is a command frame that was written (rule R23). -/
  outstanding : s.outstanding = true → EndsInCommand s.config s.trace
  /-- F_BUSY is raised only while a command is outstanding (rule R24). -/
  busy        : s.fault = some .busy → s.outstanding = true
  /-- A request that faults returns nothing (rule R202). -/
  noResult    : s.fault ≠ none → s.result = none
  /-- What was returned last is a good result. -/
  result      : ∀ r, s.result = some r → GoodResult r

/-- Run a list of requests one after another by their meanings, stopping at the first that has no next state. -/
def execAll : List Instr → State → StepOutcome
  | [], s => .next s
  | i :: rest, s =>
    match exec i s with
    | .next t => execAll rest t
    | .fault f => .fault f
    | .refused r => .refused r

end Sys2Proof.Machine
end

