-- ==== Sys2Proof/Certificates/Slice0/Obligations.lean ====
section
/-! DEFINITION. What is to be proved of the machine. A statement about `exec` gives the whole next state as an update
of the old one, so that every field it does not name is said to be unchanged. Where `result` is set to none, that is
the model's form (log entry 9) of "No result is returned" (rule R202). -/

open Sys2Proof Sys2Proof.Machine

/-! ### Requests and their serialised form -/

/-- Byte sequences written out from rule R61 and the programs of 95_test_vectors.md, one for each kind. -/
def Obligations.SpecBytesDecode : Prop :=
  decode [0x01] = .ok .wake ∧
  decode [0x02] = .ok .idle ∧
  decode [0x03, 0x12, 0x00, 0x05, 0x00, 0x04, 0x01, 0x02, 0x03, 0x04] =
    .ok (.sendCommand 0x12 0x00 0x0005 [0x01, 0x02, 0x03, 0x04]) ∧
  decode [0x10] = .ok .crcClear ∧
  decode [0x11, 0x04] = .ok (.crcByte 0x04) ∧
  decode [0x12, 0x06, 0x00, 0x07, 0x03, 0x1B, 0x00, 0x00, 0x00] =
    .ok (.crcCompute [0x07, 0x03, 0x1B, 0x00, 0x00, 0x00]) ∧
  decode [0x20, 0x04, 0x04, 0x04, 0x00, 0x03, 0x40] = .ok (.checkResponse 0x04 [0x04, 0x00, 0x03, 0x40])

/-- The decoder gives back every well-formed request from its serialised form, with every operand. -/
def Obligations.DecodeOfEncode : Prop :=
  ∀ i : Instr, i.wellFormed = true → decode (encode i) = .ok i

/-- What the decoder reads is well formed, and its serialised form is the very sequence read: no two sequences stand
for one request. That a longer sequence stands for none is the model's reading (log entry 4). -/
def Obligations.EncodeOfDecode : Prop :=
  ∀ (bytes : List Byte) (i : Instr), decode bytes = .ok i → i.wellFormed = true ∧ encode i = bytes

/-- "A request with a reserved tag faults with `F_RESERVED`" and so does "a serialised request with fewer operand
bytes than its kind needs" (rule R61): one step of a running block sets `fault`, takes the request from the port, and
changes nothing else. The port is the model's (log entry 2). -/
def Obligations.ReservedOrTruncatedRequestFaults : Prop :=
  ∀ (s : State) (bytes : List Byte) (rest : List Input),
    Running s → s.inputs = .request bytes :: rest →
    ((∃ tag operands, bytes = tag :: operands ∧
        tag ∉ ([0x01, 0x02, 0x03, 0x10, 0x11, 0x12, 0x20] : List Byte)) ∨
      (∃ (i : Instr) (k : Nat), i.wellFormed = true ∧ 1 ≤ k ∧ k < (encode i).length ∧ bytes = (encode i).take k)) →
    step s = .next { s with inputs := rest, fault := some .reserved, result := none }

/-- Rule R62 for the typed requests: the only operands that can be out of range are the sequences, a request with one
out of range faults with `F_RESERVED`, no other check is made at decode, and a payload above MAX_PAYLOAD but within 8
bits is reported as FRAME_TOO_LARGE. -/
def Obligations.OperandRanges : Prop :=
  (∀ i : Instr, i.wellFormed = false ↔
    (∃ op p1 p2 payload, i = .sendCommand op p1 p2 payload ∧ 255 < payload.length) ∨
    (∃ bytes, i = .crcCompute bytes ∧ 65535 < bytes.length) ∨
    (∃ maxc bytes, i = .checkResponse maxc bytes ∧ 255 < bytes.length)) ∧
  (∀ (i : Instr) (s : State), Running s → i.wellFormed = false →
    exec i s = .next { s with fault := some .reserved, result := none }) ∧
  (∀ i : Instr, i.wellFormed = true → ∃ j, decode (encode i) = .ok j) ∧
  (∀ (op p1 : Byte) (p2 : Half) (payload : List Byte) (s : State), BusFree s → payload.length ≤ 255 →
    maxPayloadOf s.config op < payload.length →
    exec (.sendCommand op p1 p2 payload) s = .next { s with result := some ⟨.frameTooLarge, []⟩ })

/-- What the assembler makes of a text line (rule R63) is the byte form of a well-formed request: it decodes, to the
request the line's tokens stand for. How the text is cut into tokens is the model's (log entry 18). -/
def Obligations.AssembledLineIsARequest : Prop :=
  ∀ (line : List Char) (bytes : List Byte), assemble line = some bytes →
    ∃ i : Instr, parseLine (tokenize [] line) = some i ∧ i.wellFormed = true ∧ decode bytes = .ok i

/-! ### The step -/

/-- A step takes the next request from the port and runs its meaning; so does the step after `withFetchWord`. The port
and `withFetchWord` are the model's (log entry 2). -/
def Obligations.StepRunsTheDecodedRequest : Prop :=
  (∀ (s : State) (bytes : List Byte) (rest : List Input) (i : Instr),
    s.inputs = .request bytes :: rest → decode bytes = .ok i → step s = exec i { s with inputs := rest }) ∧
  (∀ (s : State) (nbits w : Nat) (i : Instr),
    decodeTableWord nbits w = some i → step (s.withFetchWord nbits w) = exec i s)

/-- A running block that has been issued nothing waits and keeps its whole state. The model's choice: log entry 3. -/
def Obligations.BlockWithNothingIssuedWaits : Prop :=
  ∀ s : State, Running s → s.inputs = [] → step s = .next s

/-- A stopped block gives no request a step, and no step but the one that takes a reset (rules R24, R202). That a
stopped block with nothing issued has no step either, and that a reset behind a request is not taken, are the model's
choices (log entries 11, 22). -/
def Obligations.StoppedBlockHasNoStep : Prop :=
  ∀ (s : State) (reason : FaultReason), s.fault = some reason →
    (∀ i : Instr, exec i s = .fault (.stopped reason)) ∧
    (s.inputs.head? ≠ some .reset → step s = .fault (.stopped reason))

/-- A running block gives every request a next state, and that state is faulted exactly as rule R205 orders it:
F_RESERVED for an operand out of range, then F_BUSY for a bus request while a command is outstanding. -/
def Obligations.RunningBlockServesEveryRequest : Prop :=
  ∀ (i : Instr) (s : State), Running s →
    ∃ t, exec i s = .next t ∧
      (t.fault = some .reserved ↔ i.wellFormed = false) ∧
      (t.fault = some .busy ↔ i.wellFormed = true ∧ i.usesBus = true ∧ s.outstanding = true)

/-! ### Reset -/

/-- Rule R230, of the state the machine starts in and of the reset event in any state, a stopped one too. The model's
choices in it: the configuration stands in the state, with the spec values at reset (log entry 1); a reset is an input
(log entry 2); the environment's coming answers stay at a reset (log entry 12). -/
def Obligations.ResetLeavesSpecValues : Prop :=
  (State.reset.crcReg = 0x0000 ∧ State.reset.belief = .sleep ∧ State.reset.outstanding = false ∧
    State.reset.fault = none ∧ State.reset.trace = [] ∧ State.reset.config = Config.spec) ∧
  (∀ (s : State) (rest : List Input), s.inputs = .reset :: rest →
    ∃ t, step s = .next t ∧ t.crcReg = 0x0000 ∧ t.belief = .sleep ∧ t.outstanding = false ∧
      t.fault = none ∧ t.trace = [] ∧ t.config = s.config ∧ t.env = s.env)

/-! ### The CRC generator -/

/-- Rules R101 to R103: one byte step is eight shifts to the left, bit 0 of the byte first, each with 0x8005 XOR-ed in
after the shift when the incoming bit differs from the register's bit 15; the CRC of a sequence starts at 0x0000 and
takes the bytes in order, with nothing done to the result; its two bytes are the low one, then the high one. -/
def Obligations.CrcStepTakesBitsLowFirst : Prop :=
  (∀ (c : Half) (d : Byte), crcStep c d =
    (List.range 8).foldl
      (fun (v : Half) (k : Nat) =>
        if d.getLsbD k ≠ v.getLsbD 15 then (v <<< 1) ^^^ 0x8005 else v <<< 1) c) ∧
  crc16 [] = 0x0000 ∧
  (∀ (s : List Byte) (b : Byte), crc16 (s ++ [b]) = crcStep (crc16 s) b) ∧
  (∀ v : Half, le16 v = [v.extractLsb' 0 8, v.extractLsb' 8 8])

/-- Rules R105, R106 and R107: each CRC request has its encoding, sets `crc_reg`, returns it low byte first, and changes
nothing else, in any `belief` state and while a command is outstanding. -/
def Obligations.CrcRequestsSetTheRegister : Prop :=
  (encode .crcClear = [0x10] ∧ (∀ b : Byte, encode (.crcByte b) = [0x11, b]) ∧
    (∀ bytes : List Byte, encode (.crcCompute bytes) = [0x12] ++ le16 (BitVec.ofNat 16 bytes.length) ++ bytes)) ∧
  ∀ s : State, Running s →
    exec .crcClear s = .next { s with crcReg := 0x0000, result := some ⟨.ok, [0x00, 0x00]⟩ } ∧
    (∀ b : Byte, exec (.crcByte b) s =
      .next { s with crcReg := crcStep s.crcReg b, result := some ⟨.ok, le16 (crcStep s.crcReg b)⟩ }) ∧
    (∀ bytes : List Byte, bytes.length ≤ 65535 → exec (.crcCompute bytes) s =
      .next { s with crcReg := crc16 bytes, result := some ⟨.ok, le16 (crc16 bytes)⟩ })

/-- CRC_COMPUTE leaves the state, the returned record included, that CRC_CLEAR followed by one CRC_BYTE for each byte
leaves (rule R108, which the spec marks as derived). -/
def Obligations.CrcComputeIsClearThenBytes : Prop :=
  ∀ (bytes : List Byte) (s : State), Running s → bytes.length ≤ 65535 →
    ∃ t, exec (.crcCompute bytes) s = .next t ∧ execAll (.crcClear :: bytes.map .crcByte) s = .next t

/-- The CRC is linear over sequences of equal length, and zero on zeros (rule R109, which the spec marks as derived). -/
def Obligations.CrcIsLinear : Prop :=
  (∀ a b : List Byte, a.length = b.length → crc16 (List.zipWith (· ^^^ ·) a b) = crc16 a ^^^ crc16 b) ∧
  (∀ n : Nat, crc16 (List.replicate n 0x00) = 0x0000)

/-- The CRC is the remainder of division by x^16 + x^15 + x^2 + 1 over GF(2) (rule R100's polynomial): the message, its
bits taken least significant first (rule R42) with the first bit the highest power, times x^16, plus the CRC, is a
multiple of the polynomial. That the register computes this remainder is inferred from rules R100 to R102. -/
def Obligations.CrcIsPolynomialRemainder : Prop :=
  open Polynomial in
  ∀ s : List Byte,
    (X ^ 16 + X ^ 15 + X ^ 2 + 1 : (ZMod 2)[X]) ∣
      ((s.flatMap bitsOf).foldl (fun m b => m * X + if b then 1 else 0) (0 : (ZMod 2)[X])) * X ^ 16 +
        ∑ k ∈ Finset.range 16, if (crc16 s).getLsbD k then (X ^ k : (ZMod 2)[X]) else 0

/-- A change confined to at most 16 consecutive bits of the CRC's input stream always changes the CRC, from any
register value; so does a change of any one byte of a sequence (rule R111, which the spec marks as derived). -/
def Obligations.CrcDetectsShortBursts : Prop :=
  (∀ (c : Half) (before a b after : List Bool), a.length = b.length → a.length ≤ 16 → a ≠ b →
    (before ++ a ++ after).foldl crcBit c ≠ (before ++ b ++ after).foldl crcBit c) ∧
  (∀ (before after : List Byte) (a b : Byte), a ≠ b →
    crc16 (before ++ a :: after) ≠ crc16 (before ++ b :: after))

/-- Rule R21: only the three CRC requests write `crc_reg`, each returns its value low byte first, no other request
reads it, and its reset value is CRC_INIT. -/
def Obligations.CrcRegisterBelongsToCrcRequests : Prop :=
  (∀ (i : Instr) (s t : State), exec i s = .next t → t.fault = none →
    i.kind ∈ [Kind.crcClear, .crcByte, .crcCompute] → t.result = some ⟨.ok, le16 t.crcReg⟩) ∧
  (∀ (i : Instr) (s t : State) (v : Half), exec i s = .next t →
    i.kind ∉ [Kind.crcClear, .crcByte, .crcCompute] →
    t.crcReg = s.crcReg ∧ exec i { s with crcReg := v } = .next { t with crcReg := v }) ∧
  State.reset.crcReg = 0x0000

/-! ### The response check -/

/-- Rule R180's verdicts, as one characterisation: malformed exactly for an empty input, a count outside 4..maxc or a
length other than the count; otherwise a checksum mismatch exactly when the recomputed CRC differs from the trailing
two bytes, read low byte first; otherwise OK with the bytes between count and CRC. -/
def Obligations.FrameCheckVerdicts : Prop :=
  (∀ maxc : Byte, frameCheck maxc [] = ⟨.malformedResponse, []⟩) ∧
  (∀ (maxc count : Byte) (rest : List Byte),
    (count.toNat < 4 ∨ count.toNat > maxc.toNat ∨ rest.length + 1 ≠ count.toNat) →
    frameCheck maxc (count :: rest) = ⟨.malformedResponse, []⟩) ∧
  (∀ (maxc count lo hi : Byte) (data : List Byte),
    4 ≤ count.toNat → count.toNat ≤ maxc.toNat → data.length + 3 = count.toNat →
    frameCheck maxc (count :: data ++ [lo, hi]) =
      if fromLe16 lo hi = crc16 (count :: data) then ⟨.ok, data⟩ else ⟨.checksumMismatch, []⟩)

/-- The check accepts exactly the frames of rule R71's form within the bound, and gives back their data. -/
def Obligations.CheckAcceptsExactlyValidFrames : Prop :=
  ∀ (maxc : Byte) (r data : List Byte),
    frameCheck maxc r = ⟨.ok, data⟩ ↔
      1 ≤ data.length ∧ data.length + 3 ≤ maxc.toNat ∧
      r = (BitVec.ofNat 8 (3 + data.length) :: data) ++
        le16 (crc16 (BitVec.ofNat 8 (3 + data.length) :: data))

/-- A valid frame with one byte changed is rejected: as malformed when the count is changed, as a checksum mismatch
when a data or CRC byte is (rule R183 item 8, which the spec marks as derived). -/
def Obligations.OneByteCorruptionIsRejected : Prop :=
  ∀ (maxc : Byte) (r : List Byte) (k : Nat) (b : Byte),
    (frameCheck maxc r).code = .ok → k < r.length → r.getD k 0 ≠ b →
    frameCheck maxc (r.set k b) = ⟨if k = 0 then .malformedResponse else .checksumMismatch, []⟩

/-- Rule R181: CHECK_RESPONSE has its encoding, clears `outstanding` whatever the verdict, returns the verdict, and changes
nothing else; it is allowed while a command is outstanding and while none is. With more than 255 bytes it faults. -/
def Obligations.CheckResponseEndsTheCommand : Prop :=
  ∀ (maxc : Byte) (bytes : List Byte) (s : State), Running s →
    (bytes.length ≤ 255 →
      encode (.checkResponse maxc bytes) = [0x20, maxc, BitVec.ofNat 8 bytes.length] ++ bytes ∧
      exec (.checkResponse maxc bytes) s =
        .next { s with outstanding := false, result := some (frameCheck maxc bytes) }) ∧
    (255 < bytes.length →
      exec (.checkResponse maxc bytes) s = .next { s with fault := some .reserved, result := none })

/-- Rule R72: the spec value of WAKE_ACK is the response frame with count 4, the one data byte 0x11 and the CRC 0x4333
sent as 33 43. -/
def Obligations.WakeAckIsAValidFrame : Prop :=
  Config.spec.wakeAck = [0x04, 0x11, 0x33, 0x43] ∧ crc16 [0x04, 0x11] = 0x4333 ∧
  le16 0x4333 = [0x33, 0x43] ∧ frameCheck 0x04 Config.spec.wakeAck = ⟨.ok, [0x11]⟩

/-! ### Wake and idle -/

/-- Rules R122, R123, R125 and R126: WAKE with the bus free makes attempts, each with the pulse and the four-byte read
of rule R123, up to the first that reads WAKE_ACK, and returns it with `belief` AWAKE; when none of WAKE_ATTEMPTS does,
it returns WAKE_FAILURE with `belief` SLEEP; nothing else changes. One of the two holds of every state. With a command
outstanding it faults with F_BUSY and issues nothing. -/
def Obligations.WakeRunsTheHandshake : Prop :=
  encode .wake = [0x01] ∧
  ∀ s : State, Running s → configValid s.config →
    (s.outstanding = true → exec .wake s = .next { s with fault := some .busy, result := none }) ∧
    ((∃ k, WakesAt s k) ∨ NeverWakes s) ∧
    (∀ k, s.outstanding = false → WakesAt s k →
      exec .wake s = .next { afterHandshake k .awake s with result := some ⟨.ok, s.config.wakeAck⟩ }) ∧
    (s.outstanding = false → NeverWakes s →
      exec .wake s =
        .next { afterHandshake s.config.wakeAttempts .sleep s with result := some ⟨.wakeFailure, []⟩ })

/-- Rules R69 and R128: IDLE with the bus free writes the one byte WA_IDLE; on `ok` `belief` becomes IDLE, on `err` the
result is TRANSPORT_ERROR and `belief` stays; no read is made and nothing else changes. With a command outstanding it
faults with F_BUSY and issues nothing. -/
def Obligations.IdleWritesTheIdleByte : Prop :=
  encode .idle = [0x02] ∧
  ∀ s : State, Running s →
    exec .idle s =
      if s.outstanding = true then .next { s with fault := some .busy, result := none }
      else .next { s with
        env := s.env.afterWrite
        trace := s.trace ++ [.write [s.config.waIdle] s.env.nextWrite]
        belief := if s.env.nextWrite = .ok then .idle else s.belief
        result := some ⟨if s.env.nextWrite = .ok then .ok else .transportError, []⟩ }

/-! ### The framer -/

/-- Rules R64 to R67 and R150: the bytes of a command frame in both layouts, with the count byte 7 + n (no wrap), param2 and the
CRC low byte first, and the CRC over the layout's own input. -/
def Obligations.CommandFrameBytes : Prop :=
  ∀ (c : Config) (op p1 : Byte) (p2 : Half) (payload : List Byte), payload.length ≤ maxPayloadOf c op →
    let count : Byte := BitVec.ofNat 8 (7 + payload.length)
    let body := [op, p1, p2.extractLsb' 0 8, p2.extractLsb' 8 8] ++ payload
    count.toNat = 7 + payload.length ∧
    (buildFrame c op p1 p2 payload).length = 8 + payload.length ∧
    (c.frameLayout = .literal → buildFrame c op p1 p2 payload =
      ([count, c.waCommand] ++ body) ++ le16 (crc16 ([count, c.waCommand] ++ body))) ∧
    (c.frameLayout = .device → buildFrame c op p1 p2 payload =
      [c.waCommand] ++ ([count] ++ body) ++ le16 (crc16 ([count] ++ body)))

/-- `parse_frame` gives back the fields of every frame the framer builds, in both layouts, and the count byte is the
total length minus one (rule R156, which the spec marks as derived). -/
def Obligations.ParseOfBuild : Prop :=
  ∀ (c : Config) (op p1 : Byte) (p2 : Half) (payload : List Byte), payload.length ≤ maxPayloadOf c op →
    parseFrame c (buildFrame c op p1 p2 payload) = some ⟨op, p1, p2, payload⟩ ∧
    ((buildFrame c op p1 p2 payload).getD (countOffset c.frameLayout) 0).toNat =
      (buildFrame c op p1 p2 payload).length - 1

/-- What `parse_frame` accepts is the frame the framer builds from the fields it gives: no other sequence parses. That a
sequence of fewer than 8 bytes does not parse is the model's choice (log entry 23): rule R156 gives `parse_frame` for 8
bytes or more. -/
def Obligations.BuildOfParse : Prop :=
  ∀ (c : Config) (f : List Byte) (x : CommandFields),
    parseFrame c f = some x → f = buildFrame c x.op x.p1 x.p2 x.payload ∧ x.payload.length ≤ 248

/-- Rule R152. A payload of more than 255 bytes faults with F_RESERVED. With a command outstanding SEND_COMMAND faults
with F_BUSY and issues nothing. Otherwise: a payload above MAX_PAYLOAD(op) returns FRAME_TOO_LARGE with no bus event;
within the bound the handshake runs; a failed one returns WAKE_FAILURE with nothing written; after a successful one the
frame is written in one transaction, and the answer decides between OK with the frame and `outstanding`, and
TRANSPORT_ERROR. Nothing else changes. -/
def Obligations.SendCommandWakesThenWritesTheFrame : Prop :=
  (∀ (op p1 : Byte) (p2 : Half) (payload : List Byte) (s : State), Running s → 255 < payload.length →
    exec (.sendCommand op p1 p2 payload) s = .next { s with fault := some .reserved, result := none }) ∧
  ∀ (op p1 : Byte) (p2 : Half) (payload : List Byte) (s : State),
    Running s → configValid s.config → payload.length ≤ 255 →
    encode (.sendCommand op p1 p2 payload) =
      [0x03, op, p1] ++ le16 p2 ++ [BitVec.ofNat 8 payload.length] ++ payload ∧
    (s.outstanding = true →
      exec (.sendCommand op p1 p2 payload) s = .next { s with fault := some .busy, result := none }) ∧
    (s.outstanding = false → maxPayloadOf s.config op < payload.length →
      exec (.sendCommand op p1 p2 payload) s = .next { s with result := some ⟨.frameTooLarge, []⟩ }) ∧
    (s.outstanding = false → payload.length ≤ maxPayloadOf s.config op → NeverWakes s →
      exec (.sendCommand op p1 p2 payload) s =
        .next { afterHandshake s.config.wakeAttempts .sleep s with result := some ⟨.wakeFailure, []⟩ }) ∧
    (∀ k, s.outstanding = false → payload.length ≤ maxPayloadOf s.config op → WakesAt s k →
      let awake := afterHandshake k .awake s
      let frame := buildFrame s.config op p1 p2 payload
      exec (.sendCommand op p1 p2 payload) s = .next
        (match awake.env.nextWrite with
        | .ok => { awake with
            env := awake.env.afterWrite
            trace := awake.trace ++ [.write frame .ok]
            outstanding := true
            result := some ⟨.ok, frame⟩ }
        | .err => { awake with
            env := awake.env.afterWrite
            trace := awake.trace ++ [.write frame .err]
            result := some ⟨.transportError, []⟩ }))

/-- SEND_COMMAND past its size check is WAKE followed by the frame's write: it returns WAKE_FAILURE in the very state
WAKE leaves, or writes the frame from that state (rules R127, R152: the same handshake). -/
def Obligations.SendCommandIsWakeThenWrite : Prop :=
  ∀ (op p1 : Byte) (p2 : Half) (payload : List Byte) (s : State),
    BusFree s → configValid s.config → payload.length ≤ 255 → payload.length ≤ maxPayloadOf s.config op →
    ∃ t, exec .wake s = .next t ∧
      ((t.result = some ⟨.wakeFailure, []⟩ ∧ exec (.sendCommand op p1 p2 payload) s = .next t) ∨
        (t.result = some ⟨.ok, s.config.wakeAck⟩ ∧ t.belief = .awake ∧
          ∃ u, exec (.sendCommand op p1 p2 payload) s = .next u ∧
            u.trace = t.trace ++ [.write (buildFrame s.config op p1 p2 payload) t.env.nextWrite] ∧
            u.belief = .awake ∧ u.env = t.env.afterWrite ∧
            (u.outstanding = true ↔ t.env.nextWrite = .ok)))

/-! ### Rules of the whole machine -/

/-- Rule R235: while a command is outstanding WAKE, IDLE and SEND_COMMAND fault with F_BUSY, issue no event and change
nothing else, and the CRC requests and CHECK_RESPONSE remain allowed. -/
def Obligations.OneCommandAtATime : Prop :=
  ∀ (i : Instr) (s : State), Running s → s.outstanding = true → i.wellFormed = true →
    (i.usesBus = true → exec i s = .next { s with fault := some .busy, result := none }) ∧
    (i.usesBus = false → ∃ t, exec i s = .next t ∧ t.fault = none)

/-- Rule R23: SEND_COMMAND sets `outstanding` exactly when its frame write returns ok, CHECK_RESPONSE clears it, no
other request writes it, bus requests fault while it is set, and its reset value is 0. -/
def Obligations.OutstandingTracksTheCommand : Prop :=
  (∀ (op p1 : Byte) (p2 : Half) (payload : List Byte) (s t : State), BusFree s → configValid s.config →
    exec (.sendCommand op p1 p2 payload) s = .next t →
    (t.outstanding = true ↔
      ∃ before, t.trace = s.trace ++ before ++ [.write (buildFrame s.config op p1 p2 payload) .ok])) ∧
  (∀ (maxc : Byte) (bytes : List Byte) (s t : State), bytes.length ≤ 255 →
    exec (.checkResponse maxc bytes) s = .next t → t.outstanding = false) ∧
  (∀ (i : Instr) (s t : State), i.kind ∉ [Kind.sendCommand, .checkResponse] → exec i s = .next t →
    t.outstanding = s.outstanding) ∧
  (∀ (i : Instr) (s : State), Running s → s.outstanding = true → i.wellFormed = true → i.usesBus = true →
    exec i s = .next { s with fault := some .busy, result := none }) ∧
  State.reset.outstanding = false

/-- Rule R22: the encoding of `belief` and that 3 is never held; the handshake leaves AWAKE on success and SLEEP on
failure, IDLE leaves IDLE when its write succeeds, and no other request and no other outcome writes it; no rule reads it
(the outcome of a request under any other belief is the same state, but for a belief that the request left alone); and
its reset value is SLEEP. -/
def Obligations.BeliefIsWrittenAndNeverRead : Prop :=
  (Belief.sleep.toBits = 0 ∧ Belief.idle.toBits = 1 ∧ Belief.awake.toBits = 2 ∧
    (∀ b : Belief, b.toBits ≠ 3) ∧ Belief.ofBits 3 = none) ∧
  (∀ (i : Instr) (s t : State), exec i s = .next t → configValid s.config →
    t.belief =
      match i, t.result.map (·.code) with
      | .wake, some .ok => .awake
      | .wake, some .wakeFailure => .sleep
      | .sendCommand _ _ _ _, some .ok => .awake
      | .sendCommand _ _ _ _, some .transportError => .awake
      | .sendCommand _ _ _ _, some .wakeFailure => .sleep
      | .idle, some .ok => .idle
      | _, _ => s.belief) ∧
  (∀ (i : Instr) (s t : State) (b : Belief), exec i s = .next t →
    ∃ b', exec i { s with belief := b } = .next { t with belief := b' } ∧
      (b' = t.belief ∨ (b' = b ∧ t.belief = s.belief))) ∧
  State.reset.belief = .sleep

/-- Rule R25: the trace is append-only, each transport primitive appends exactly one event that carries its arguments
and the environment's answer, no rule reads the trace (from any other trace a request appends the same events and does
the same otherwise), and it is empty at reset. -/
def Obligations.TraceIsAppendedAndNeverRead : Prop :=
  (∀ (us : Nat) (s : State), holdLow us s = { s with trace := s.trace ++ [.holdLow us] } ∧
    sleepFor us s = { s with trace := s.trace ++ [.sleep us] }) ∧
  (∀ (bytes : List Byte) (s : State), (writeBytes bytes s).2 =
    { s with trace := s.trace ++ [.write bytes (writeBytes bytes s).1], env := s.env.afterWrite }) ∧
  (∀ (n : Fin 256) (s : State), (readBytes n s).2 =
    { s with trace := s.trace ++ [.read n (readBytes n s).1], env := s.env.afterRead }) ∧
  (∀ (i : Instr) (s t : State) (other : List Event), exec i s = .next t →
    ∃ new, t.trace = s.trace ++ new ∧
      exec i { s with trace := other } = .next { t with trace := other ++ new }) ∧
  State.reset.trace = []

/-- What a request may put on the bus: the line held low and the wait after it only for the configured durations and
only by WAKE and SEND_COMMAND, reads only of four bytes and only by them, WA_IDLE only as IDLE's frame, WA_COMMAND only
at the marker position of SEND_COMMAND's frame (rules R47, R48, R74). -/
def Obligations.EventsARequestMayIssue : Prop :=
  ∀ (i : Instr) (s t : State) (e : Event), exec i s = .next t → e ∈ t.trace.drop s.trace.length →
    match e with
    | .holdLow us => us = s.config.tWloUs ∧ i.kind ∈ [Kind.wake, .sendCommand]
    | .sleep us => us = s.config.tWhiUs ∧ i.kind ∈ [Kind.wake, .sendCommand]
    | .read n answer => n = 4 ∧ shortAnswer answer ∧ i.kind ∈ [Kind.wake, .sendCommand]
    | .write bytes _ =>
        (i = .idle ∧ bytes = [s.config.waIdle]) ∨
        (∃ op p1 p2 payload, i = .sendCommand op p1 p2 payload ∧ bytes = buildFrame s.config op p1 p2 payload ∧
          bytes.getD (markerOffset s.config.frameLayout) 0 = s.config.waCommand)

/-- How many events each request appends (rule R241, which the spec marks as derived); a request that faults appends
none. -/
def Obligations.EventCounts : Prop :=
  ∀ (i : Instr) (s t : State), exec i s = .next t → configValid s.config → t.fault = none →
    match i with
    | .wake =>
        (NeverWakes s ∧ t.trace.length = s.trace.length + 3 * s.config.wakeAttempts) ∨
        (∃ k, WakesAt s k ∧ t.trace.length = s.trace.length + 3 * k)
    | .idle => t.trace.length = s.trace.length + 1
    | .sendCommand _ _ _ _ =>
        (t.result = some ⟨.frameTooLarge, []⟩ ∧ t.trace.length = s.trace.length) ∨
        (t.result = some ⟨.wakeFailure, []⟩ ∧ t.trace.length = s.trace.length + 3 * s.config.wakeAttempts) ∨
        (∃ k, WakesAt s k ∧ t.trace.length = s.trace.length + (3 * k + 1))
    | _ => t.trace.length = s.trace.length

/-- Rules R200 and R211: the numbers of the result codes, none for 0x9 to 0xF, and which request may return which code;
the three reserved kinds are never returned. -/
def Obligations.ResultCodes : Prop :=
  (ResultCode.ok.toBits = 0x0 ∧ ResultCode.transportError.toBits = 0x1 ∧ ResultCode.wakeFailure.toBits = 0x2 ∧
    ResultCode.frameTooLarge.toBits = 0x3 ∧ ResultCode.checksumMismatch.toBits = 0x4 ∧
    ResultCode.malformedResponse.toBits = 0x5 ∧ ResultCode.chipStatusError.toBits = 0x6 ∧
    ResultCode.timeout.toBits = 0x7 ∧ ResultCode.lockedZoneViolation.toBits = 0x8) ∧
  (∀ v : BitVec 4, 0x9 ≤ v.toNat → ResultCode.ofBits v = none) ∧
  (∀ (i : Instr) (s t : State), exec i s = .next t → t.fault = none →
    ∃ r, t.result = some r ∧
      r.code ∈ match i.kind with
        | .wake => [ResultCode.ok, .wakeFailure]
        | .idle => [ResultCode.ok, .transportError]
        | .sendCommand => [ResultCode.ok, .transportError, .wakeFailure, .frameTooLarge]
        | .crcClear => [ResultCode.ok]
        | .crcByte => [ResultCode.ok]
        | .crcCompute => [ResultCode.ok]
        | .checkResponse => [ResultCode.ok, .checksumMismatch, .malformedResponse])

/-- "An error result carries empty data: no request returns partial data with an error" (rule R201), and a request that
faults returns nothing. -/
def Obligations.ErrorsCarryNoData : Prop :=
  ∀ (i : Instr) (s t : State), exec i s = .next t →
    (∀ r, t.result = some r → r.code ≠ .ok → r.data = []) ∧ (t.fault ≠ none → t.result = none)

/-- A request that faults changes `fault` and nothing else: no event, no result, no other field (rule R202). -/
def Obligations.FaultChangesNothingElse : Prop :=
  ∀ (i : Instr) (s t : State), exec i s = .next t → t.fault ≠ none →
    t = { s with fault := t.fault, result := none }

/-- No step writes the configuration, a reset included (rules R27, R230). That the configuration is carried in the state
is the model's choice (log entry 1). -/
def Obligations.ConfigurationIsReadOnly : Prop :=
  ∀ s t : State, step s = .next t → t.config = s.config

/-- After every step from a state that meets the invariant, each sequence written on the bus so far is the idle frame, or
a command frame that stands right after a wake attempt that read WAKE_ACK: no command without a successful wake (rule
R152). -/
def Obligations.NoCommandWithoutWake : Prop :=
  ∀ (s t : State) (before after : List Event) (bytes : List Byte) (outcome : WriteAnswer),
    BlockInv s → step s = .next t → t.trace = before ++ [.write bytes outcome] ++ after →
    bytes = [t.config.waIdle] ∨
    (∃ op p1 p2 payload earlier, bytes = buildFrame t.config op p1 p2 payload ∧
      payload.length ≤ maxPayloadOf t.config op ∧
      before = earlier ++ attemptEvents t.config (.data t.config.wakeAck))

/-- In an environment that answers every read with WAKE_ACK and every write with ok, the cycle wake, command, check,
idle goes through from every running block with the bus free (program P2 of 95_test_vectors.md, with any command, any
bound and any response): eight events, `belief` IDLE, nothing outstanding. -/
def Obligations.CommandCycleCompletes : Prop :=
  ∀ (s : State) (op p1 : Byte) (p2 : Half) (payload : List Byte) (maxc : Byte) (response : List Byte)
    (reads : List ReadAnswer) (writes : List WriteAnswer),
    BusFree s → configValid s.config → payload.length ≤ 255 → payload.length ≤ maxPayloadOf s.config op →
    response.length ≤ 255 →
    s.env.reads = .data s.config.wakeAck :: .data s.config.wakeAck :: reads →
    s.env.writes = .ok :: .ok :: writes →
    execAll [.wake, .sendCommand op p1 p2 payload, .checkResponse maxc response, .idle] s =
      .next { s with
        belief := .idle
        trace := s.trace ++ (attemptEvents s.config (.data s.config.wakeAck) ++
          attemptEvents s.config (.data s.config.wakeAck) ++
          [.write (buildFrame s.config op p1 p2 payload) .ok, .write [s.config.waIdle] .ok])
        env := { s.env with reads := reads, writes := writes }
        result := some ⟨.ok, []⟩ }

/-- The machine right after reset meets the invariant, with no command outstanding, no fault and no result. That the
result and the configuration have a place in the state, with these values at reset, is the model's choice (log entries 9
and 1). -/
def Obligations.ResetMeetsTheInvariant : Prop :=
  BlockInv State.reset ∧ State.reset.outstanding = false ∧ State.reset.fault = none ∧ State.reset.result = none

/-- Every step keeps the invariant: the trace stays one the block's requests can produce, `belief` stays what the trace
says, an outstanding command stays the last thing on the bus, results stay good. Its clauses on `result` speak of the
model's own field (log entry 9). -/
def Obligations.EveryStepKeepsTheInvariant : Prop :=
  ∀ s t : State, BlockInv s → step s = .next t → BlockInv t
end

