-- ==== Sys2Proof/Laws/Bytes.lean ====
section
/-! SUPPORT. Byte order, tags and operand bytes: the small lemmas of Decode.lean's definitions. -/

namespace Sys2Proof

@[simp] theorem le16_length (v : Half) : (le16 v).length = 2 := rfl

/-- Two bytes put together and taken apart are the same two bytes. -/
@[simp] theorem le16_fromLe16 (lo hi : Byte) : le16 (fromLe16 lo hi) = [lo, hi] := by
  have hlo : (fromLe16 lo hi).extractLsb' 0 8 = lo := by
    apply BitVec.eq_of_getLsbD_eq
    intro i h
    simp [fromLe16]; simp [h, show i < 16 by omega]
  have hhi : (fromLe16 lo hi).extractLsb' 8 8 = hi := by
    apply BitVec.eq_of_getLsbD_eq
    intro i h
    simp [fromLe16, h, show 8 + i < 16 by omega]
  simp only [le16, hlo, hhi]

/-- The two bytes of a 16-bit value put together are the value. -/
@[simp] theorem fromLe16_bytes (v : Half) : fromLe16 (v.extractLsb' 0 8) (v.extractLsb' 8 8) = v := by
  apply BitVec.eq_of_getLsbD_eq
  intro i h
  by_cases h8 : i < 8
  · simp [fromLe16, h8, h]
  · simp [fromLe16, h8, h, show i - 8 < 8 by omega, show 8 + (i - 8) = i by omega]

theorem le16_injective {a b : Half} (h : le16 a = le16 b) : a = b := by
  have h' := congrArg (fun l => fromLe16 (l.getD 0 0) (l.getD 1 0)) h
  simpa [le16] using h'

@[simp] theorem kindOfTag_tag (k : Kind) : kindOfTag k.tag = some k := by cases k <;> rfl

theorem kindOfTag_eq_some {tag : Byte} {k : Kind} (h : kindOfTag tag = some k) : tag = k.tag := by
  have h' := List.find?_some h
  exact (by simpa using h' : k.tag = tag).symm

@[simp] theorem takeBytes_append (p rest : List Byte) : takeBytes p.length (p ++ rest) = some (p, rest) := by
  simp [takeBytes]

theorem takeBytes_eq_some {n : Nat} {bytes : List Byte} {p : List Byte × List Byte}
    (h : takeBytes n bytes = some p) : bytes = p.1 ++ p.2 ∧ p.1.length = n := by
  unfold takeBytes at h
  split at h
  · obtain rfl : (bytes.take n, bytes.drop n) = p := by simpa using h
    simpa using ‹n ≤ bytes.length›
  · simp at h

end Sys2Proof
end

