-- ==== Sys2Proof/Laws/State.lean ====
section
/-! SUPPORT. One lemma per field per state update, each true by rfl, so that no proof unfolds a record update. -/

namespace Sys2Proof.Machine


@[simp] theorem emit_config (e : Event) (s : State) : (emit e s).config = s.config := rfl
@[simp] theorem emit_crcReg (e : Event) (s : State) : (emit e s).crcReg = s.crcReg := rfl
@[simp] theorem emit_belief (e : Event) (s : State) : (emit e s).belief = s.belief := rfl
@[simp] theorem emit_outstanding (e : Event) (s : State) : (emit e s).outstanding = s.outstanding := rfl
@[simp] theorem emit_fault (e : Event) (s : State) : (emit e s).fault = s.fault := rfl
@[simp] theorem emit_trace (e : Event) (s : State) : (emit e s).trace = s.trace ++ [e] := rfl
@[simp] theorem emit_result (e : Event) (s : State) : (emit e s).result = s.result := rfl
@[simp] theorem emit_inputs (e : Event) (s : State) : (emit e s).inputs = s.inputs := rfl
@[simp] theorem emit_env (e : Event) (s : State) : (emit e s).env = s.env := rfl

@[simp] theorem writeBytes_config (bytes : List Byte) (s : State) : (writeBytes bytes s).2.config = s.config := rfl
@[simp] theorem writeBytes_crcReg (bytes : List Byte) (s : State) : (writeBytes bytes s).2.crcReg = s.crcReg := rfl
@[simp] theorem writeBytes_belief (bytes : List Byte) (s : State) : (writeBytes bytes s).2.belief = s.belief := rfl
@[simp] theorem writeBytes_outstanding (bytes : List Byte) (s : State) : (writeBytes bytes s).2.outstanding = s.outstanding := rfl
@[simp] theorem writeBytes_fault (bytes : List Byte) (s : State) : (writeBytes bytes s).2.fault = s.fault := rfl
@[simp] theorem writeBytes_trace (bytes : List Byte) (s : State) : (writeBytes bytes s).2.trace = s.trace ++ [.write bytes s.env.nextWrite] := rfl
@[simp] theorem writeBytes_result (bytes : List Byte) (s : State) : (writeBytes bytes s).2.result = s.result := rfl
@[simp] theorem writeBytes_inputs (bytes : List Byte) (s : State) : (writeBytes bytes s).2.inputs = s.inputs := rfl
@[simp] theorem writeBytes_env (bytes : List Byte) (s : State) : (writeBytes bytes s).2.env = s.env.afterWrite := rfl

@[simp] theorem readBytes_config (n : Fin 256) (s : State) : (readBytes n s).2.config = s.config := rfl
@[simp] theorem readBytes_crcReg (n : Fin 256) (s : State) : (readBytes n s).2.crcReg = s.crcReg := rfl
@[simp] theorem readBytes_belief (n : Fin 256) (s : State) : (readBytes n s).2.belief = s.belief := rfl
@[simp] theorem readBytes_outstanding (n : Fin 256) (s : State) : (readBytes n s).2.outstanding = s.outstanding := rfl
@[simp] theorem readBytes_fault (n : Fin 256) (s : State) : (readBytes n s).2.fault = s.fault := rfl
@[simp] theorem readBytes_trace (n : Fin 256) (s : State) : (readBytes n s).2.trace = s.trace ++ [.read n (s.env.nextRead n)] := rfl
@[simp] theorem readBytes_result (n : Fin 256) (s : State) : (readBytes n s).2.result = s.result := rfl
@[simp] theorem readBytes_inputs (n : Fin 256) (s : State) : (readBytes n s).2.inputs = s.inputs := rfl
@[simp] theorem readBytes_env (n : Fin 256) (s : State) : (readBytes n s).2.env = s.env.afterRead := rfl

@[simp] theorem returnResult_config (r : Result) (s : State) : (returnResult r s).config = s.config := rfl
@[simp] theorem returnResult_crcReg (r : Result) (s : State) : (returnResult r s).crcReg = s.crcReg := rfl
@[simp] theorem returnResult_belief (r : Result) (s : State) : (returnResult r s).belief = s.belief := rfl
@[simp] theorem returnResult_outstanding (r : Result) (s : State) : (returnResult r s).outstanding = s.outstanding := rfl
@[simp] theorem returnResult_fault (r : Result) (s : State) : (returnResult r s).fault = s.fault := rfl
@[simp] theorem returnResult_trace (r : Result) (s : State) : (returnResult r s).trace = s.trace := rfl
@[simp] theorem returnResult_result (r : Result) (s : State) : (returnResult r s).result = some r := rfl
@[simp] theorem returnResult_inputs (r : Result) (s : State) : (returnResult r s).inputs = s.inputs := rfl
@[simp] theorem returnResult_env (r : Result) (s : State) : (returnResult r s).env = s.env := rfl

@[simp] theorem raiseFault_config (reason : FaultReason) (s : State) : (raiseFault reason s).config = s.config := rfl
@[simp] theorem raiseFault_crcReg (reason : FaultReason) (s : State) : (raiseFault reason s).crcReg = s.crcReg := rfl
@[simp] theorem raiseFault_belief (reason : FaultReason) (s : State) : (raiseFault reason s).belief = s.belief := rfl
@[simp] theorem raiseFault_outstanding (reason : FaultReason) (s : State) : (raiseFault reason s).outstanding = s.outstanding := rfl
@[simp] theorem raiseFault_fault (reason : FaultReason) (s : State) : (raiseFault reason s).fault = some reason := rfl
@[simp] theorem raiseFault_trace (reason : FaultReason) (s : State) : (raiseFault reason s).trace = s.trace := rfl
@[simp] theorem raiseFault_result (reason : FaultReason) (s : State) : (raiseFault reason s).result = none := rfl
@[simp] theorem raiseFault_inputs (reason : FaultReason) (s : State) : (raiseFault reason s).inputs = s.inputs := rfl
@[simp] theorem raiseFault_env (reason : FaultReason) (s : State) : (raiseFault reason s).env = s.env := rfl

@[simp] theorem resetBlock_config (s : State) : (resetBlock s).config = s.config := rfl
@[simp] theorem resetBlock_crcReg (s : State) : (resetBlock s).crcReg = Config.crcInit := rfl
@[simp] theorem resetBlock_belief (s : State) : (resetBlock s).belief = .sleep := rfl
@[simp] theorem resetBlock_outstanding (s : State) : (resetBlock s).outstanding = false := rfl
@[simp] theorem resetBlock_fault (s : State) : (resetBlock s).fault = none := rfl
@[simp] theorem resetBlock_trace (s : State) : (resetBlock s).trace = [] := rfl
@[simp] theorem resetBlock_result (s : State) : (resetBlock s).result = none := rfl
@[simp] theorem resetBlock_inputs (s : State) : (resetBlock s).inputs = s.inputs := rfl
@[simp] theorem resetBlock_env (s : State) : (resetBlock s).env = s.env := rfl

@[simp] theorem setCrc_config (v : Half) (s : State) : (setCrc v s).config = s.config := rfl
@[simp] theorem setCrc_crcReg (v : Half) (s : State) : (setCrc v s).crcReg = v := rfl
@[simp] theorem setCrc_belief (v : Half) (s : State) : (setCrc v s).belief = s.belief := rfl
@[simp] theorem setCrc_outstanding (v : Half) (s : State) : (setCrc v s).outstanding = s.outstanding := rfl
@[simp] theorem setCrc_fault (v : Half) (s : State) : (setCrc v s).fault = s.fault := rfl
@[simp] theorem setCrc_trace (v : Half) (s : State) : (setCrc v s).trace = s.trace := rfl
@[simp] theorem setCrc_result (v : Half) (s : State) : (setCrc v s).result = some ⟨.ok, le16 v⟩ := rfl
@[simp] theorem setCrc_inputs (v : Half) (s : State) : (setCrc v s).inputs = s.inputs := rfl
@[simp] theorem setCrc_env (v : Half) (s : State) : (setCrc v s).env = s.env := rfl

@[simp] theorem checkResponse_config (maxc : Byte) (r : List Byte) (s : State) : (checkResponse maxc r s).config = s.config := rfl
@[simp] theorem checkResponse_crcReg (maxc : Byte) (r : List Byte) (s : State) : (checkResponse maxc r s).crcReg = s.crcReg := rfl
@[simp] theorem checkResponse_belief (maxc : Byte) (r : List Byte) (s : State) : (checkResponse maxc r s).belief = s.belief := rfl
@[simp] theorem checkResponse_outstanding (maxc : Byte) (r : List Byte) (s : State) : (checkResponse maxc r s).outstanding = false := rfl
@[simp] theorem checkResponse_fault (maxc : Byte) (r : List Byte) (s : State) : (checkResponse maxc r s).fault = s.fault := rfl
@[simp] theorem checkResponse_trace (maxc : Byte) (r : List Byte) (s : State) : (checkResponse maxc r s).trace = s.trace := rfl
@[simp] theorem checkResponse_result (maxc : Byte) (r : List Byte) (s : State) : (checkResponse maxc r s).result = some (frameCheck maxc r) := rfl
@[simp] theorem checkResponse_inputs (maxc : Byte) (r : List Byte) (s : State) : (checkResponse maxc r s).inputs = s.inputs := rfl
@[simp] theorem checkResponse_env (maxc : Byte) (r : List Byte) (s : State) : (checkResponse maxc r s).env = s.env := rfl

@[simp] theorem wakePulse_config (s : State) : (wakePulse s).config = s.config := rfl
@[simp] theorem wakePulse_crcReg (s : State) : (wakePulse s).crcReg = s.crcReg := rfl
@[simp] theorem wakePulse_belief (s : State) : (wakePulse s).belief = s.belief := rfl
@[simp] theorem wakePulse_outstanding (s : State) : (wakePulse s).outstanding = s.outstanding := rfl
@[simp] theorem wakePulse_fault (s : State) : (wakePulse s).fault = s.fault := rfl
@[simp] theorem wakePulse_result (s : State) : (wakePulse s).result = s.result := rfl
@[simp] theorem wakePulse_inputs (s : State) : (wakePulse s).inputs = s.inputs := rfl
@[simp] theorem wakePulse_env (s : State) : (wakePulse s).env = s.env := rfl

@[simp] theorem afterHandshake_config (k : Nat) (b : Belief) (s : State) : (afterHandshake k b s).config = s.config := rfl
@[simp] theorem afterHandshake_crcReg (k : Nat) (b : Belief) (s : State) : (afterHandshake k b s).crcReg = s.crcReg := rfl
@[simp] theorem afterHandshake_belief (k : Nat) (b : Belief) (s : State) : (afterHandshake k b s).belief = b := rfl
@[simp] theorem afterHandshake_outstanding (k : Nat) (b : Belief) (s : State) : (afterHandshake k b s).outstanding = s.outstanding := rfl
@[simp] theorem afterHandshake_fault (k : Nat) (b : Belief) (s : State) : (afterHandshake k b s).fault = s.fault := rfl
@[simp] theorem afterHandshake_trace (k : Nat) (b : Belief) (s : State) : (afterHandshake k b s).trace = s.trace ++ handshakeEvents s.config s.env k := rfl
@[simp] theorem afterHandshake_result (k : Nat) (b : Belief) (s : State) : (afterHandshake k b s).result = s.result := rfl
@[simp] theorem afterHandshake_inputs (k : Nat) (b : Belief) (s : State) : (afterHandshake k b s).inputs = s.inputs := rfl
@[simp] theorem afterHandshake_env (k : Nat) (b : Belief) (s : State) : (afterHandshake k b s).env = afterReads k s.env := rfl

@[simp] theorem wakePulse_trace (s : State) :
    (wakePulse s).trace = s.trace ++ [.holdLow s.config.tWloUs, .sleep s.config.tWhiUs] := by
  simp [wakePulse, holdLow, sleepFor, emit]

@[simp] theorem writeBytes_answer (bytes : List Byte) (s : State) : (writeBytes bytes s).1 = s.env.nextWrite := rfl

@[simp] theorem readBytes_answer (n : Fin 256) (s : State) : (readBytes n s).1 = s.env.nextRead n := rfl

end Sys2Proof.Machine
end

