-- ==== Sys2Proof/Laws/Ops.lean ====
section
/-! SUPPORT. What each shared operation can do, said once: the tests before a request's work, the environment's
answers, and the wake handshake. -/

namespace Sys2Proof.Machine

/-! ### Tests before a request's own work -/

theorem whenRunning_of_running {s : State} (go : StepOutcome) (h : Running s) : whenRunning s go = go := by
  have h' : s.fault = none := h
  simp [whenRunning, h']

theorem whenRunning_next {s t : State} {go : StepOutcome} :
    whenRunning s go = .next t ↔ s.fault = none ∧ go = .next t := by
  cases h : s.fault <;> simp [whenRunning, h]

theorem whenRunning_stopped {s : State} {reason : FaultReason} (go : StepOutcome) (h : s.fault = some reason) :
    whenRunning s go = .fault (.stopped reason) := by
  simp [whenRunning, h]

theorem whenInRange_next {s t : State} {inRange : Bool} {go : StepOutcome} :
    whenInRange inRange s go = .next t ↔
      (inRange = true ∧ go = .next t) ∨ (inRange = false ∧ t = raiseFault .reserved s) := by
  cases inRange <;> simp [whenInRange, eq_comm]

theorem whenNotOutstanding_next {s t : State} {go : StepOutcome} :
    whenNotOutstanding s go = .next t ↔
      (s.outstanding = false ∧ go = .next t) ∨ (s.outstanding = true ∧ t = raiseFault .busy s) := by
  cases h : s.outstanding <;> simp [whenNotOutstanding, h, eq_comm]

/-! ### The environment's answers -/

theorem shortAnswer_limitAnswer (answer : ReadAnswer) : shortAnswer (limitAnswer 4 answer) := by
  cases answer with
  | data bytes => simp [limitAnswer, shortAnswer]
  | err => trivial

theorem shortAnswer_nextRead (e : Environment) : shortAnswer (e.nextRead 4) := by
  unfold Environment.nextRead
  split <;> exact shortAnswer_limitAnswer _

theorem shortAnswer_readAt (k : Nat) (e : Environment) : shortAnswer (readAt 4 k e) := by
  induction k generalizing e with
  | zero => exact shortAnswer_nextRead e
  | succ k ih => exact ih e.afterRead

/-! ### The wake handshake -/

theorem handshakeEvents_zero (c : Config) (e : Environment) : handshakeEvents c e 0 = [] := rfl

/-- The first attempt's events, then those of the attempts after it. -/
theorem handshakeEvents_succ (c : Config) (e : Environment) (k : Nat) :
    handshakeEvents c e (k + 1) = attemptEvents c (readAt 4 0 e) ++ handshakeEvents c e.afterRead k := by
  simp [handshakeEvents, List.range_succ_eq_map, List.flatMap_map, readAt]

theorem handshakeEvents_length (c : Config) (e : Environment) (k : Nat) :
    (handshakeEvents c e k).length = 3 * k := by
  induction k generalizing e with
  | zero => rfl
  | succ k ih => rw [handshakeEvents_succ, List.length_append, ih]; simp [attemptEvents]; omega

/-- Under a valid configuration an acknowledgment is `WAKE_ACK` and nothing else (rule R124). -/
theorem acknowledgment_eq {c : Config} (hc : configValid c) (answer : ReadAnswer) :
    acknowledgment c answer = if answer = .data c.wakeAck then some c.wakeAck else none := by
  obtain ⟨-, -, -, -, -, hok⟩ := hc
  cases answer with
  | err => simp [acknowledgment]
  | data r =>
    by_cases h : r = c.wakeAck
    · subst h; simp [acknowledgment, ackOk, hok]
    · simp [acknowledgment, ackOk, h]

@[simp] theorem wakeAttempt_answer (s : State) : (wakeAttempt s).1 = acknowledgment s.config (s.env.nextRead 4) := rfl

/-- One attempt: three events, one read (rule R123). -/
theorem wakeAttempt_state (s : State) :
    (wakeAttempt s).2 =
      { s with trace := s.trace ++ attemptEvents s.config (s.env.nextRead 4), env := s.env.afterRead } := by
  simp [wakeAttempt, wakePulse, readBytes, holdLow, sleepFor, emit, attemptEvents]

/-- A handshake of at most `n` attempts either succeeds at its first acknowledgment or makes all `n` (rule R125). -/
theorem tryWake_cases (n : Nat) (s : State) (hc : configValid s.config) :
    (∃ k, 1 ≤ k ∧ k ≤ n ∧ readAt 4 (k - 1) s.env = .data s.config.wakeAck ∧
        (∀ j, j < k - 1 → readAt 4 j s.env ≠ .data s.config.wakeAck) ∧
        tryWake n s = (⟨.ok, s.config.wakeAck⟩, afterHandshake k .awake s)) ∨
    ((∀ j, j < n → readAt 4 j s.env ≠ .data s.config.wakeAck) ∧
        tryWake n s = (⟨.wakeFailure, []⟩, afterHandshake n .sleep s)) := by
  induction n generalizing s with
  | zero => exact .inr ⟨by omega, by simp [tryWake, afterHandshake, handshakeEvents, afterReads]⟩
  | succ n ih =>
    by_cases h : s.env.nextRead 4 = .data s.config.wakeAck
    · refine .inl ⟨1, by omega, by omega, h, by omega, ?_⟩
      simp [tryWake, acknowledgment_eq hc, h, wakeAttempt_state, afterHandshake, handshakeEvents_succ,
        handshakeEvents_zero, readAt, afterReads]
    · have hstep : tryWake (n + 1) s = tryWake n (wakeAttempt s).2 := by
        simp [tryWake, acknowledgment_eq hc, h]
      have hafter (k : Nat) (b : Belief) :
          afterHandshake k b (wakeAttempt s).2 = afterHandshake (k + 1) b s := by
        simp [afterHandshake, wakeAttempt_state, handshakeEvents_succ, readAt, afterReads]
      rw [hstep]
      rcases ih (wakeAttempt s).2 (by simpa [wakeAttempt_state] using hc) with
        ⟨k, hk1, hkn, hack, hbefore, heq⟩ | ⟨hnone, heq⟩
      · refine .inl ⟨k + 1, by omega, by omega, ?_, ?_, ?_⟩
        · obtain ⟨m, rfl⟩ : ∃ m, k = m + 1 := ⟨k - 1, by omega⟩
          simpa [wakeAttempt_state, readAt] using hack
        · intro j hj
          cases j with
          | zero => exact h
          | succ j => simpa [wakeAttempt_state, readAt] using hbefore j (by omega)
        · rw [heq, hafter]; simp [wakeAttempt_state]
      · refine .inr ⟨?_, ?_⟩
        · intro j hj
          cases j with
          | zero => exact h
          | succ j => simpa [wakeAttempt_state, readAt] using hnone j (by omega)
        · rw [heq, hafter]

/-- Everything the handshake can do (rule R125). -/
theorem wakeHandshake_cases (s : State) (hc : configValid s.config) :
    (∃ k, WakesAt s k ∧ wakeHandshake s = (⟨.ok, s.config.wakeAck⟩, afterHandshake k .awake s)) ∨
    (NeverWakes s ∧ wakeHandshake s = (⟨.wakeFailure, []⟩, afterHandshake s.config.wakeAttempts .sleep s)) := by
  rcases tryWake_cases s.config.wakeAttempts s hc with ⟨k, h1, h2, h3, h4, h5⟩ | ⟨h1, h2⟩
  · exact .inl ⟨k, ⟨h1, h2, h3, h4⟩, h5⟩
  · exact .inr ⟨h1, h2⟩

end Sys2Proof.Machine
end

