-- ==== Sys2Proof/Laws/Exec.lean ====
section
/-! SUPPORT. What a request and a step can do, said once: every statement about `exec` or `step` starts from
`exec_next_iff` or `step_next_cases` and does not unfold them again. -/

namespace Sys2Proof.Machine

/-- The next state of a request in a running block, test by test (rule R205). -/
def Effect (i : Instr) (s t : State) : Prop :=
  match i with
  | .wake => (s.outstanding = true ∧ t = raiseFault .busy s) ∨ (s.outstanding = false ∧ t = wake s)
  | .idle => (s.outstanding = true ∧ t = raiseFault .busy s) ∨ (s.outstanding = false ∧ t = idle s)
  | .sendCommand op p1 p2 payload =>
      (255 < payload.length ∧ t = raiseFault .reserved s) ∨
      (payload.length ≤ 255 ∧ s.outstanding = true ∧ t = raiseFault .busy s) ∨
      (payload.length ≤ 255 ∧ s.outstanding = false ∧ t = sendCommand op p1 p2 payload s)
  | .crcClear => t = setCrc Config.crcInit s
  | .crcByte b => t = setCrc (crcStep s.crcReg b) s
  | .crcCompute bytes =>
      (65535 < bytes.length ∧ t = raiseFault .reserved s) ∨ (bytes.length ≤ 65535 ∧ t = setCrc (crc16 bytes) s)
  | .checkResponse maxc bytes =>
      (255 < bytes.length ∧ t = raiseFault .reserved s) ∨ (bytes.length ≤ 255 ∧ t = checkResponse maxc bytes s)

/-- A request has a next state exactly in a running block, and then the one `Effect` gives. -/
theorem exec_next_iff {i : Instr} {s t : State} : exec i s = .next t ↔ s.fault = none ∧ Effect i s t := by
  cases i <;>
    simp only [exec, Effect, execWake, execIdle, execSendCommand, execCrcClear, execCrcByte, execCrcCompute,
      execCheckResponse, whenRunning_next, whenInRange_next, whenNotOutstanding_next, maxShortSequence,
      maxCrcSequence, Host.Outcome.next.injEq] <;>
    rw [eq_comm (b := t)]
  case wake | idle => tauto
  case sendCommand payload =>
    by_cases hl : payload.length ≤ 255
    · simp only [hl, decide_true, Nat.not_lt.mpr hl]; tauto
    · simp only [hl, decide_false, Nat.not_le.mp hl]; tauto
  case crcCompute bytes =>
    by_cases hl : bytes.length ≤ 65535
    · simp only [hl, decide_true, Nat.not_lt.mpr hl]; tauto
    · simp only [hl, decide_false, Nat.not_le.mp hl]; tauto
  case checkResponse bytes =>
    by_cases hl : bytes.length ≤ 255
    · simp only [hl, decide_true, Nat.not_lt.mpr hl]; tauto
    · simp only [hl, decide_false, Nat.not_le.mp hl]; tauto

/-- Everything IDLE can do with the bus free (rule R128). -/
theorem idle_cases (s : State) :
    (s.env.nextWrite = .ok ∧ idle s =
      { s with
        env := s.env.afterWrite, trace := s.trace ++ [.write [s.config.waIdle] .ok]
        belief := .idle, result := some ⟨.ok, []⟩ }) ∨
    (s.env.nextWrite = .err ∧ idle s =
      { s with
        env := s.env.afterWrite, trace := s.trace ++ [.write [s.config.waIdle] .err]
        result := some ⟨.transportError, []⟩ }) := by
  simp only [idle, writeBytes]
  cases s.env.nextWrite <;> simp [emit, returnResult]

/-- Everything the write of a frame can do (rule R152). -/
theorem transmit_cases (frame : List Byte) (s : State) :
    (s.env.nextWrite = .ok ∧ transmit frame s =
      { s with
        env := s.env.afterWrite, trace := s.trace ++ [.write frame .ok]
        outstanding := true, result := some ⟨.ok, frame⟩ }) ∨
    (s.env.nextWrite = .err ∧ transmit frame s =
      { s with
        env := s.env.afterWrite, trace := s.trace ++ [.write frame .err]
        result := some ⟨.transportError, []⟩ }) := by
  simp only [transmit, writeBytes]
  cases s.env.nextWrite <;> simp [emit, returnResult]

/-- The handshake's only fields are the trace, the environment and the belief, under any configuration. -/
theorem tryWake_frame (n : Nat) (s : State) :
    ∃ tr e b, (tryWake n s).2 = { s with trace := tr, env := e, belief := b } := by
  induction n generalizing s with
  | zero => exact ⟨_, _, _, rfl⟩
  | succ n ih =>
    unfold tryWake
    split
    · rw [wakeAttempt_state]; exact ⟨_, _, _, rfl⟩
    · obtain ⟨tr, e, b, h⟩ := ih (wakeAttempt s).2
      rw [h, wakeAttempt_state]; exact ⟨_, _, _, rfl⟩

/-- The handshake returns OK, or WAKE_FAILURE with no data, under any configuration. -/
theorem tryWake_result (n : Nat) (s : State) :
    (tryWake n s).1.code = .ok ∨ (tryWake n s).1 = ⟨.wakeFailure, []⟩ := by
  induction n generalizing s with
  | zero => exact .inr rfl
  | succ n ih =>
    unfold tryWake
    split
    · exact .inl rfl
    · exact ih _

/-- Everything a step that has a next state can be: a reset, waiting, a malformed request, or a request run. -/
theorem step_next_cases {s t : State} (h : step s = .next t) :
    (∃ rest, s.inputs = .reset :: rest ∧ t = resetBlock { s with inputs := rest }) ∨
    (s.fault = none ∧ s.inputs = [] ∧ t = s) ∨
    (∃ bytes rest e, s.fault = none ∧ s.inputs = .request bytes :: rest ∧ decode bytes = .error e ∧
      t = raiseFault .reserved { s with inputs := rest }) ∨
    (∃ bytes rest i, s.inputs = .request bytes :: rest ∧ decode bytes = .ok i ∧
      exec i { s with inputs := rest } = .next t) := by
  unfold step takeInput at h
  match hi : s.inputs with
  | [] => simp [hi, whenRunning_next] at h; obtain ⟨h, rfl⟩ := h; simp [h]
  | .reset :: rest => simp [hi] at h; simp [h]
  | .request bytes :: rest =>
    cases hd : decode bytes with
    | ok i => simp [hi, hd] at h; simp [h, hd]
    | error e => simp [hi, hd, whenRunning_next] at h; obtain ⟨h, rfl⟩ := h; simp [h, hd]

end Sys2Proof.Machine
end

