-- ==== Sys2Proof/Laws/PerInstr.lean ====
section
/-! SUPPORT. Statements made of every request, one lemma per constructor. -/

namespace Sys2Proof.Laws

/-- The serialised form begins with the request's tag, which stands for its kind and no other (rules R60, R61). -/
def TagFirst.Statement (i : Instr) : Prop := (encode i).head?.bind kindOfTag = some i.kind

theorem TagFirst.wake : Statement .wake := rfl
theorem TagFirst.idle : Statement .idle := rfl
theorem TagFirst.sendCommand (op p1 : Byte) (p2 : Half) (payload : List Byte) :
    Statement (.sendCommand op p1 p2 payload) := rfl
theorem TagFirst.crcClear : Statement .crcClear := rfl
theorem TagFirst.crcByte (b : Byte) : Statement (.crcByte b) := rfl
theorem TagFirst.crcCompute (bytes : List Byte) : Statement (.crcCompute bytes) := rfl
theorem TagFirst.checkResponse (maxc : Byte) (bytes : List Byte) : Statement (.checkResponse maxc bytes) := rfl

/-- The serialised form of a well-formed request says its own length (rules R61, R62). -/
def LengthInHeader.Statement (i : Instr) : Prop :=
  i.wellFormed = true → requestLength (encode i) = (encode i).length

theorem LengthInHeader.wake : Statement .wake := fun _ => rfl
theorem LengthInHeader.idle : Statement .idle := fun _ => rfl

theorem LengthInHeader.sendCommand (op p1 : Byte) (p2 : Half) (payload : List Byte) :
    Statement (.sendCommand op p1 p2 payload) := by
  intro h
  have hl : payload.length ≤ 255 := by simpa [Instr.wellFormed] using h
  have hk : kindOfTag (Instr.sendCommand op p1 p2 payload).kind.tag = some .sendCommand := kindOfTag_tag _
  simp [requestLength, encode, encodeOperands, le16, hk]
  omega

theorem LengthInHeader.crcClear : Statement .crcClear := fun _ => rfl
theorem LengthInHeader.crcByte (b : Byte) : Statement (.crcByte b) := fun _ => rfl

theorem LengthInHeader.crcCompute (bytes : List Byte) : Statement (.crcCompute bytes) := by
  intro h
  have hl : bytes.length ≤ 65535 := by simpa [Instr.wellFormed] using h
  have hk : kindOfTag (Instr.crcCompute bytes).kind.tag = some .crcCompute := kindOfTag_tag _
  simp only [requestLength, encode, encodeOperands, le16, List.cons_append, List.nil_append, List.getD_cons_zero,
    List.getD_cons_succ, hk, fromLe16_bytes]
  simp
  omega

theorem LengthInHeader.checkResponse (maxc : Byte) (bytes : List Byte) : Statement (.checkResponse maxc bytes) := by
  intro h
  have hl : bytes.length ≤ 255 := by simpa [Instr.wellFormed] using h
  have hk : kindOfTag (Instr.checkResponse maxc bytes).kind.tag = some .checkResponse := kindOfTag_tag _
  simp [requestLength, encode, encodeOperands, hk]
  omega

end Sys2Proof.Laws
end

