-- ==== Sys2Proof/Tests/Slice0.lean ====
section
/-! SUPPORT. Tests. Every expected value comes from the spec: rule R61's encodings, the vectors of
95_test_vectors.md, or the rule named beside it. Then, for every obligation with hypotheses, a witness that meets them
together, one for each clause. -/

namespace Sys2Proof.Tests

open Sys2Proof.Machine

-- The kernel's evaluations below one after another: each at once holds a thread until those before it are done.
set_option Elab.async false

/-! ### WellFormed refuses what is out of range (rule R62) -/

theorem test_long_payload_is_ill_formed :
    (Instr.sendCommand 0x45 0x00 0x0000 (List.replicate 256 0x00)).wellFormed = false := by decide +kernel

theorem test_long_crc_input_is_ill_formed :
    (Instr.crcCompute (List.replicate 65536 0x00)).wellFormed = false := by
  simp only [Instr.wellFormed, List.length_replicate]
  decide

theorem test_long_response_is_ill_formed :
    (Instr.checkResponse 0x04 (List.replicate 256 0x00)).wellFormed = false := by decide +kernel

/-! ### Decoding words written out from rule R61 -/

/-- Tags 0x01, 0x02 and 0x10 take no operands; programs P1 and P2. -/
theorem test_decode_tag_only :
    decode [0x01] = .ok .wake ∧ decode [0x02] = .ok .idle ∧ decode [0x10] = .ok .crcClear := by decide +kernel

/-- Vector FR-8 as a request: p2 = 0x1234 is serialised low byte first (rules R61, R43); program P3, step 2. -/
theorem test_decode_sendCommand :
    decode [0x03, 0xAA, 0x55, 0x34, 0x12, 0x00] = .ok (.sendCommand 0xAA 0x55 0x1234 []) ∧
    decode [0x03, 0x12, 0x00, 0x05, 0x00, 0x04, 0x01, 0x02, 0x03, 0x04] =
      .ok (.sendCommand 0x12 0x00 0x0005 [0x01, 0x02, 0x03, 0x04]) := by decide +kernel

/-- Program P1, steps 2 and 4. -/
theorem test_decode_crc :
    decode [0x11, 0x04] = .ok (.crcByte 0x04) ∧
    decode [0x12, 0x06, 0x00, 0x07, 0x03, 0x1B, 0x00, 0x00, 0x00] =
      .ok (.crcCompute [0x07, 0x03, 0x1B, 0x00, 0x00, 0x00]) := by decide +kernel

/-- Program P4, step 4. -/
theorem test_decode_checkResponse :
    decode [0x20, 0x04, 0x04, 0x04, 0x00, 0x03, 0x40] = .ok (.checkResponse 0x04 [0x04, 0x00, 0x03, 0x40]) := by
  decide +kernel

/-- Reserved tags at the edges of rule R61's ranges, truncated requests, and log entries 4 and 5. -/
theorem test_decode_refuses :
    decode [0x00] = .error (.reservedTag 0x00) ∧ decode [0x04] = .error (.reservedTag 0x04) ∧
    decode [0x0F] = .error (.reservedTag 0x0F) ∧ decode [0x13] = .error (.reservedTag 0x13) ∧
    decode [0x1F] = .error (.reservedTag 0x1F) ∧ decode [0x21] = .error (.reservedTag 0x21) ∧
    decode [0xFF] = .error (.reservedTag 0xFF) ∧
    decode [0x03, 0x1B, 0x00, 0x00, 0x00] = .error (.truncated .sendCommand) ∧
    decode [0x11] = .error (.truncated .crcByte) ∧
    decode [0x12, 0x02, 0x00, 0x07] = .error (.truncated .crcCompute) ∧
    decode [0x20, 0x04, 0x01] = .error (.truncated .checkResponse) ∧
    decode [] = .error .noTag ∧ decode [0x01, 0x00] = .error (.trailing .wake) := by decide +kernel

/-- No two kinds have one tag. -/
theorem test_tags_differ : (allKinds.map Kind.tag).Nodup := by decide

/-- A table word of eight bits, operand bytes zero (rule R61). -/
theorem test_decodeTableWord :
    decodeTableWord 8 0x01 = some .wake ∧ decodeTableWord 8 0x03 = some (.sendCommand 0x00 0x00 0x0000 []) ∧
    decodeTableWord 8 0x12 = some (.crcCompute []) ∧ decodeTableWord 8 0x20 = some (.checkResponse 0x00 []) ∧
    decodeTableWord 8 0x04 = none := by decide +kernel

/-- The text lines of programs P1, P2, P3 and P4 assemble to their encoding columns (rule R63). -/
theorem test_assemble :
    assemble "WAKE".toList = some [0x01] ∧
    assemble "SEND 0x1B, 0x00, 0x0000".toList = some [0x03, 0x1B, 0x00, 0x00, 0x00, 0x00] ∧
    assemble "SEND 0x12, 0x00, 0x0005, 01 02 03 04".toList =
      some [0x03, 0x12, 0x00, 0x05, 0x00, 0x04, 0x01, 0x02, 0x03, 0x04] ∧
    assemble "CRC.B 0xFF".toList = some [0x11, 0xFF] ∧
    assemble "CRC.SEQ [07 03 1B 00 00 00]".toList =
      some [0x12, 0x06, 0x00, 0x07, 0x03, 0x1B, 0x00, 0x00, 0x00] ∧
    assemble "CRC.SEQ []".toList = some [0x12, 0x00, 0x00] ∧
    assemble "CHECK 0x04, [04 00 03 40]".toList = some [0x20, 0x04, 0x04, 0x04, 0x00, 0x03, 0x40] ∧
    assemble "CRC.B 0x100".toList = none := by decide +kernel

/-! ### Functions: vectors of 95_test_vectors.md section 2 -/

/-- CRC-1 to CRC-15 and CRC-17. -/
theorem test_crc16 :
    crc16 [] = 0x0000 ∧ crc16 [0x00] = 0x0000 ∧ crc16 [0x01] = 0x8303 ∧ crc16 [0x04] = 0x80C3 ∧
    crc16 [0x04, 0x11] = 0x4333 ∧ crc16 [0x11] = 0x0330 ∧ crc16 [0x80] = 0x8005 ∧ crc16 [0xFF] = 0x0202 ∧
    crc16 [0xFF, 0xFF] = 0x800D ∧ crc16 [0x01, 0x02, 0x03, 0x04] = 0x85F0 ∧
    crc16 [0x07, 0x1B, 0x00, 0x00, 0x00] = 0xCD24 ∧
    crc16 [0x31, 0x32, 0x33, 0x34, 0x35, 0x36, 0x37, 0x38, 0x39] = 0xBCDD ∧ crc16 [0x04, 0x00] = 0x4003 ∧
    crc16 [0x04, 0x11, 0x33, 0x43] = 0x202C ∧ crcStep 0x4333 0x00 = 0xB289 ∧ crcStep 0xC2CA 0x00 = 0x488F := by
  decide +kernel

/-- The device-layout configuration of vector SC-8. -/
def deviceConfig : Config := { Config.spec with frameLayout := .device }

/-- FR-1, FR-8, FR-9, FR-10 and FR-12, in both layouts. -/
theorem test_buildFrame :
    buildFrame Config.spec 0x1B 0x00 0x0000 [] = [0x07, 0x03, 0x1B, 0x00, 0x00, 0x00, 0xCA, 0xC2] ∧
    buildFrame deviceConfig 0x1B 0x00 0x0000 [] = [0x03, 0x07, 0x1B, 0x00, 0x00, 0x00, 0x24, 0xCD] ∧
    buildFrame Config.spec 0xAA 0x55 0x1234 [] = [0x07, 0x03, 0xAA, 0x55, 0x34, 0x12, 0x4D, 0x47] ∧
    buildFrame deviceConfig 0x12 0x00 0x0005 [0x01, 0x02, 0x03, 0x04] =
      [0x03, 0x0B, 0x12, 0x00, 0x05, 0x00, 0x01, 0x02, 0x03, 0x04, 0xFD, 0x4A] ∧
    buildFrame Config.spec 0xFF 0xFF 0xFFFF [] = [0x07, 0x03, 0xFF, 0xFF, 0xFF, 0xFF, 0xC4, 0x22] ∧
    buildFrame Config.spec ChipCommand.nonce.opcode 0x03 0x0000 (List.replicate 32 0x00) =
      [0x27, 0x03, 0x16, 0x03, 0x00, 0x00] ++ List.replicate 32 0x00 ++ [0x75, 0x84] := by decide +kernel

/-- RC-1, RC-3 to RC-11 and RC-15. -/
theorem test_frameCheck :
    frameCheck 0x04 [0x04, 0x11, 0x33, 0x43] = ⟨.ok, [0x11]⟩ ∧
    frameCheck 0x04 [0x04, 0x11, 0x33, 0x42] = ⟨.checksumMismatch, []⟩ ∧
    frameCheck 0x04 [0x04, 0x11, 0x43, 0x33] = ⟨.checksumMismatch, []⟩ ∧
    frameCheck 0x04 [] = ⟨.malformedResponse, []⟩ ∧
    frameCheck 0x04 [0x03, 0x11, 0x33] = ⟨.malformedResponse, []⟩ ∧
    frameCheck 0x04 [0x05, 0x11, 0x33, 0x43] = ⟨.malformedResponse, []⟩ ∧
    frameCheck 0x0A [0x07, 0x01, 0x02, 0x03, 0x04, 0xF3, 0x28] = ⟨.ok, [0x01, 0x02, 0x03, 0x04]⟩ ∧
    frameCheck 0xFF [0xFF, 0x00, 0x00, 0x00] = ⟨.malformedResponse, []⟩ ∧
    frameCheck 0x03 [0x04, 0x00, 0x03, 0x40] = ⟨.malformedResponse, []⟩ ∧
    frameCheck 0x04 [0x04, 0x11, 0x33, 0x43, 0x00] = ⟨.malformedResponse, []⟩ ∧
    frameCheck 0x04 [0x04, ChipStatus.executionError.code, 0x23, 0x42] = ⟨.ok, [0x0F]⟩ := by decide +kernel

/-- The spec configuration allows the 128 bytes of a Verify (rule R151; vector FR-14). -/
theorem test_verify_payload_is_allowed : 128 ≤ maxPayloadOf Config.spec ChipCommand.verify.opcode := by decide

/-- Rule R121: a pulse wakes the chip from every state, an idle byte is stated for Awake only. -/
theorem test_chip_transitions :
    ChipPower.sleep.next .wakePulse = some .awake ∧ ChipPower.idle.next .wakePulse = some .awake ∧
    ChipPower.awake.next .wakePulse = some .awake ∧ ChipPower.awake.next .idleByte = some .idle ∧
    ChipPower.sleep.next .idleByte = none ∧ ChipPower.idle.next .timeout = some .sleep ∧
    readParam1 .config true = 0x80 := by decide

/-! ### One request on a small state -/

/-- The state after an outcome, if it has one. -/
def nextOf : StepOutcome → Option State
  | .next s => some s
  | .fault _ => none
  | .refused _ => none

/-- Reset with the environment's coming answers laid down. -/
def answering (reads : List ReadAnswer) (writes : List WriteAnswer) : State :=
  { State.reset with env := { reads := reads, writes := writes, draws := 0 } }

/-- WAKE_ACK as an answer. -/
def ack : ReadAnswer := .data [0x04, 0x11, 0x33, 0x43]

/-- Reset with a command outstanding. -/
def busy : State := { State.reset with outstanding := true }

/-- Reset with requests issued. -/
def issued (requests : List (List Byte)) : State := { State.reset with inputs := requests.map .request }

/-- WK-3: success on the third attempt. -/
theorem test_wake_third_attempt :
    (nextOf (exec .wake (answering [.err, .data [0x04, 0x11, 0x33, 0x42], ack] []))).map
      (fun t => (t.trace.length, t.belief, t.result)) =
      some (9, .awake, some ⟨.ok, [0x04, 0x11, 0x33, 0x43]⟩) := by decide +kernel

/-- WK-5: a valid frame that is not WAKE_ACK, a short read and an empty read each fail. -/
theorem test_wake_fails :
    (nextOf (exec .wake { answering [.data [0x04, 0x00, 0x03, 0x40], .data [0x04, 0x11, 0x33], .data []] [] with
        belief := .awake })).map
      (fun t => (t.trace.length, t.belief, t.result)) = some (9, .sleep, some ⟨.wakeFailure, []⟩) := by decide +kernel

/-- ID-4: the oracle may say ok. -/
theorem test_idle_ok :
    (nextOf (exec .idle (answering [] [.ok]))).map (fun t => (t.trace, t.belief, t.result)) =
      some ([.write [0x02] .ok], .idle, some ⟨.ok, []⟩) := by decide +kernel

/-- ID-2: `belief` is unchanged on err. -/
theorem test_idle_err :
    (nextOf (exec .idle { answering [] [.err] with belief := .awake })).map (fun t => (t.trace, t.belief, t.result)) =
      some ([.write [0x02] .err], .awake, some ⟨.transportError, []⟩) := by decide +kernel

/-- SC-1. -/
theorem test_sendCommand_ok :
    (nextOf (exec (.sendCommand 0x1B 0x00 0x0000 [])
        { State.reset with env := cooperative Config.spec 1 1 })).map
      (fun t => (t.trace, t.belief, t.outstanding, t.result)) =
      some ([.holdLow 60, .sleep 1500, .read 4 ack, .write [0x07, 0x03, 0x1B, 0x00, 0x00, 0x00, 0xCA, 0xC2] .ok],
        .awake, true, some ⟨.ok, [0x07, 0x03, 0x1B, 0x00, 0x00, 0x00, 0xCA, 0xC2]⟩) := by decide +kernel

/-- SC-7: the busy check comes before the size check. -/
theorem test_sendCommand_busy_before_size :
    (nextOf (exec (.sendCommand 0x45 0x00 0x0000 (List.replicate 249 0x00)) busy)).map
      (fun t => (t.trace, t.outstanding, t.fault, t.result)) = some ([], true, some .busy, none) := by decide +kernel

/-- CR-1. -/
theorem test_crcClear :
    (nextOf (exec .crcClear { State.reset with crcReg := 0x4333 })).map (fun t => (t.crcReg, t.result)) =
      some (0x0000, some ⟨.ok, [0x00, 0x00]⟩) := by decide +kernel

/-- CR-4. -/
theorem test_crcByte :
    (nextOf (exec (.crcByte 0x00) { State.reset with crcReg := 0x4333 })).map (fun t => (t.crcReg, t.result)) =
      some (0xB289, some ⟨.ok, [0x89, 0xB2]⟩) := by decide +kernel

/-- Program P4, step 2: allowed while a command is outstanding. -/
theorem test_crcByte_while_outstanding :
    (nextOf (exec (.crcByte 0xFF) busy)).map (fun t => (t.crcReg, t.outstanding, t.fault, t.result)) =
      some (0x0202, true, none, some ⟨.ok, [0x02, 0x02]⟩) := by decide +kernel

/-- CR-7: the old value is ignored. -/
theorem test_crcCompute :
    (nextOf (exec (.crcCompute [0x07, 0x03, 0x1B, 0x00, 0x00, 0x00]) { State.reset with crcReg := 0xB289 })).map
      (fun t => (t.crcReg, t.result)) = some (0xC2CA, some ⟨.ok, [0xCA, 0xC2]⟩) := by decide +kernel

/-- RC-2: the verdict is returned and `outstanding` cleared. -/
theorem test_checkResponse :
    (nextOf (exec (.checkResponse 0x04 [0x04, 0x00, 0x03, 0x40]) busy)).map (fun t => (t.outstanding, t.result)) =
      some (false, some ⟨.ok, [0x00]⟩) := by decide +kernel

/-- RC-3: `outstanding` is cleared whatever the verdict (rule R182). -/
theorem test_checkResponse_bad_crc :
    (nextOf (exec (.checkResponse 0x04 [0x04, 0x11, 0x33, 0x42]) busy)).map (fun t => (t.outstanding, t.result)) =
      some (false, some ⟨.checksumMismatch, []⟩) := by decide +kernel

/-- CR-9: tag 0x13. -/
theorem test_step_reserved_tag :
    (nextOf (step (issued [[0x13], [0x10]]))).map (fun t => (t.fault, t.inputs, t.result)) =
      some (some .reserved, [.request [0x10]], none) := by decide +kernel

/-- Rule R230: a reset takes a stopped block back, its configuration kept. -/
theorem test_step_reset :
    (nextOf (step { busy with config := deviceConfig, fault := some .busy, crcReg := 0x0202, inputs := [.reset] })).map
      (fun t => (t.fault, t.outstanding, t.crcReg, t.config)) = some (none, false, 0x0000, deviceConfig) := by
  decide +kernel

/-! ### Witnesses: states and operands that meet the hypotheses of the obligations -/

theorem witness_DecodeOfEncode :
    (Instr.sendCommand 0x45 0x02 0x0004 (List.replicate 255 0x00)).wellFormed = true := by decide +kernel

theorem witness_EncodeOfDecode : decode [0x11, 0x04] = .ok (.crcByte 0x04) := by decide +kernel

theorem witness_ReservedOrTruncatedRequestFaults_tag :
    Running (issued [[0x21]]) ∧ (issued [[0x21]]).inputs = .request [0x21] :: [] ∧
    (0x21 : Byte) ∉ ([0x01, 0x02, 0x03, 0x10, 0x11, 0x12, 0x20] : List Byte) := by decide

theorem witness_ReservedOrTruncatedRequestFaults_short :
    (Instr.sendCommand 0x1B 0x00 0x0000 []).wellFormed = true ∧
    5 < (encode (.sendCommand 0x1B 0x00 0x0000 [])).length ∧
    [0x03, 0x1B, 0x00, 0x00, 0x00] = (encode (.sendCommand 0x1B 0x00 0x0000 [])).take 5 := by decide +kernel

theorem witness_OperandRanges_out : Running State.reset ∧
    (Instr.checkResponse 0x04 (List.replicate 256 0x00)).wellFormed = false := by decide +kernel

theorem witness_OperandRanges_large : BusFree State.reset ∧ (List.replicate 255 (0x00 : Byte)).length ≤ 255 ∧
    maxPayloadOf State.reset.config 0x45 < (List.replicate 249 (0x00 : Byte)).length := by decide +kernel

theorem witness_AssembledLineIsARequest : assemble "CRC.CLR".toList = some [0x10] := by decide +kernel

theorem witness_StepRunsTheDecodedRequest :
    (issued [[0x11, 0x04]]).inputs = .request [0x11, 0x04] :: [] ∧ decode [0x11, 0x04] = .ok (.crcByte 0x04) ∧
    decodeTableWord 16 0x0411 = some (.crcByte 0x04) := by decide +kernel

theorem witness_BlockWithNothingIssuedWaits : Running State.reset ∧ State.reset.inputs = [] := by decide

theorem witness_StoppedBlockHasNoStep :
    { issued [[0x10]] with fault := some .busy }.fault = some FaultReason.busy ∧
    { issued [[0x10]] with fault := some .busy }.inputs.head? ≠ some .reset := by decide

theorem witness_RunningBlockServesEveryRequest : Running busy ∧ Instr.wake.usesBus = true ∧
    Instr.wake.wellFormed = true ∧ busy.outstanding = true := by decide

theorem witness_ResetLeavesSpecValues :
    { State.reset with fault := some .reserved, inputs := [.reset] }.inputs = .reset :: [] := by decide

theorem witness_CrcRequestsSetTheRegister :
    Running busy ∧ (List.replicate 65535 (0x00 : Byte)).length ≤ 65535 := by
  rw [List.length_replicate]
  decide

theorem witness_CrcIsLinear : [0x04, (0x11 : Byte)].length = [0x00, (0x11 : Byte)].length := by decide

theorem witness_CrcDetectsShortBursts :
    (List.replicate 16 true).length = (List.replicate 16 false).length ∧ (List.replicate 16 true).length ≤ 16 ∧
    List.replicate 16 true ≠ List.replicate 16 false ∧ (0x11 : Byte) ≠ 0x10 := by decide

theorem witness_CrcRegisterBelongsToCrcRequests_writes :
    (∃ t, exec (.crcByte 0x04) busy = .next t ∧ t.fault = none) ∧
    (Instr.crcByte 0x04).kind ∈ [Kind.crcClear, .crcByte, .crcCompute] := ⟨⟨_, rfl, rfl⟩, by decide⟩

theorem witness_CrcRegisterBelongsToCrcRequests_frame :
    (∃ t, exec .wake (answering [ack] []) = .next t) ∧
    Instr.wake.kind ∉ [Kind.crcClear, .crcByte, .crcCompute] := ⟨⟨_, rfl⟩, by decide⟩

/-- Counts 3, maxc + 1 and length ± 1, then count 4 = maxc and count 255 = maxc. -/
theorem witness_FrameCheckVerdicts :
    ((0x03 : Byte).toNat < 4) ∧ ((0x05 : Byte).toNat > (0x04 : Byte).toNat) ∧
    ([0x11, 0x33, (0x43 : Byte), 0x00].length + 1 ≠ (0x04 : Byte).toNat) ∧
    (4 ≤ (0x04 : Byte).toNat ∧ [(0x11 : Byte)].length + 3 = (0x04 : Byte).toNat) ∧
    ((0xFF : Byte).toNat ≤ (0xFF : Byte).toNat ∧
      (List.replicate 252 (0x00 : Byte)).length + 3 = (0xFF : Byte).toNat) := by decide +kernel

theorem witness_CheckAcceptsExactlyValidFrames :
    frameCheck 0x04 [0x04, 0x11, 0x33, 0x43] = ⟨.ok, [0x11]⟩ := by decide +kernel

theorem witness_OneByteCorruptionIsRejected :
    (frameCheck 0x04 [0x04, 0x11, 0x33, 0x43]).code = .ok ∧
    (0 < 4 ∧ [0x04, 0x11, 0x33, (0x43 : Byte)].getD 0 0 ≠ 0x05) ∧
    (3 < 4 ∧ [0x04, 0x11, 0x33, (0x43 : Byte)].getD 3 0 ≠ 0x42) := by decide +kernel

theorem witness_CheckResponseEndsTheCommand :
    Running busy ∧ (List.replicate 255 (0x00 : Byte)).length ≤ 255 ∧
    255 < (List.replicate 256 (0x00 : Byte)).length := by decide +kernel

theorem witness_WakeRunsTheHandshake_first :
    BusFree (answering [ack] []) ∧ configValid (answering [ack] []).config ∧ WakesAt (answering [ack] []) 1 :=
  ⟨by decide, by decide +kernel, by decide, by decide, by decide, by decide⟩

theorem witness_WakeRunsTheHandshake_busy :
    Running busy ∧ configValid busy.config ∧ busy.outstanding = true := ⟨by decide, by decide +kernel, by decide⟩

theorem witness_WakeRunsTheHandshake_last : WakesAt (answering [.err, .data [], ack] []) 3 :=
  ⟨by decide, by decide, by decide, by decide⟩

theorem witness_WakeRunsTheHandshake_never :
    BusFree (answering [.err, .err, .err] []) ∧ configValid (answering [.err, .err, .err] []).config ∧
    NeverWakes (answering [.err, .err, .err] []) :=
  ⟨by decide, by decide +kernel, (by decide : ∀ j, j < 3 → readAt 4 j (answering [.err, .err, .err] []).env ≠ ack)⟩

theorem witness_IdleWritesTheIdleByte : Running State.reset ∧ Running busy := by decide

theorem witness_CommandFrameBytes :
    (List.replicate 248 (0x00 : Byte)).length ≤ maxPayloadOf Config.spec 0x45 ∧
    (List.replicate 248 (0x00 : Byte)).length ≤ maxPayloadOf deviceConfig 0x45 ∧
    Config.spec.frameLayout = .literal ∧ deviceConfig.frameLayout = .device := by decide +kernel

theorem witness_ParseOfBuild :
    (List.replicate 248 (0x00 : Byte)).length ≤ maxPayloadOf deviceConfig 0x45 := by decide +kernel

theorem witness_BuildOfParse :
    parseFrame Config.spec [0x07, 0x03, 0x1B, 0x00, 0x00, 0x00, 0xCA, 0xC2] = some ⟨0x1B, 0x00, 0x0000, []⟩ ∧
    parseFrame deviceConfig [0x03, 0x07, 0x1B, 0x00, 0x00, 0x00, 0x24, 0xCD] = some ⟨0x1B, 0x00, 0x0000, []⟩ := by
  decide +kernel

theorem witness_SendCommandWakesThenWritesTheFrame_faults :
    Running busy ∧ configValid busy.config ∧ busy.outstanding = true ∧ (List.replicate 255 (0x00 : Byte)).length ≤ 255 ∧
    255 < (List.replicate 256 (0x00 : Byte)).length := by decide +kernel

/-- The bounds of the clauses: 249 is too large, 248 is not. -/
theorem witness_SendCommandWakesThenWritesTheFrame :
    BusFree (answering [.err, ack] [.err]) ∧ configValid (answering [.err, ack] [.err]).config ∧
    (List.replicate 255 (0x00 : Byte)).length ≤ 255 ∧
    maxPayloadOf (answering [.err, ack] [.err]).config 0x45 < (List.replicate 249 (0x00 : Byte)).length ∧
    (List.replicate 248 (0x00 : Byte)).length ≤ maxPayloadOf (answering [.err, ack] [.err]).config 0x45 ∧
    WakesAt (answering [.err, ack] [.err]) 2 :=
  ⟨by decide, by decide +kernel, by decide +kernel, by decide +kernel, by decide +kernel,
    by decide, by decide, by decide, by decide⟩

theorem witness_SendCommandIsWakeThenWrite :
    BusFree (answering [ack] [.ok]) ∧ configValid (answering [ack] [.ok]).config ∧
    ([] : List Byte).length ≤ maxPayloadOf (answering [ack] [.ok]).config 0x1B := by decide +kernel

theorem witness_OneCommandAtATime :
    Running busy ∧ busy.outstanding = true ∧ Instr.idle.wellFormed = true ∧ Instr.idle.usesBus = true ∧
    Instr.crcClear.wellFormed = true ∧ Instr.crcClear.usesBus = false := by decide

theorem witness_OutstandingTracksTheCommand :
    (BusFree (answering [ack] [.ok]) ∧ configValid (answering [ack] [.ok]).config ∧
      ∃ t, exec (.sendCommand 0x1B 0x00 0x0000 []) (answering [ack] [.ok]) = .next t) ∧
    (∃ t, exec (.checkResponse 0x04 []) busy = .next t) ∧
    (Instr.idle.kind ∉ [Kind.sendCommand, .checkResponse] ∧ ∃ t, exec .idle (answering [] [.ok]) = .next t) :=
  ⟨⟨by decide, by decide +kernel, _, rfl⟩, ⟨_, rfl⟩, by decide, _, rfl⟩

theorem witness_BeliefIsWrittenAndNeverRead :
    configValid (answering [ack] [.ok]).config ∧
    (∃ t, exec (.sendCommand 0x1B 0x00 0x0000 []) (answering [ack] [.ok]) = .next t) ∧
    (∃ t, exec .idle (answering [] [.err]) = .next t) := ⟨by decide +kernel, ⟨_, rfl⟩, _, rfl⟩

theorem witness_TraceIsAppendedAndNeverRead :
    ∃ t, exec .wake (answering [ack] []) = .next t := ⟨_, rfl⟩

theorem witness_EventsARequestMayIssue :
    ∃ t, exec .idle (answering [] [.ok]) = .next t ∧
      Event.write [0x02] .ok ∈ t.trace.drop (answering [] [.ok]).trace.length := ⟨_, rfl, by decide +kernel⟩

theorem witness_EventCounts :
    configValid (answering [ack] [.ok]).config ∧
    (∃ t, exec (.sendCommand 0x1B 0x00 0x0000 []) (answering [ack] [.ok]) = .next t ∧ t.fault = none) :=
  ⟨by decide +kernel, _, rfl, by decide +kernel⟩

theorem witness_ResultCodes :
    9 ≤ (0x9 : BitVec 4).toNat ∧ (∃ t, exec .idle (answering [] [.err]) = .next t ∧ t.fault = none) :=
  ⟨by decide, _, rfl, by decide +kernel⟩

theorem witness_ErrorsCarryNoData :
    (∃ t, exec .idle (answering [] [.err]) = .next t ∧ ∃ r, t.result = some r ∧ r.code ≠ .ok) ∧
    (∃ t, exec .idle busy = .next t ∧ t.fault ≠ none) :=
  ⟨⟨_, rfl, _, rfl, by decide⟩, _, rfl, by decide⟩

theorem witness_FaultChangesNothingElse : ∃ t, exec .wake busy = .next t ∧ t.fault ≠ none := ⟨_, rfl, by decide⟩

theorem witness_ConfigurationIsReadOnly : ∃ t, step (issued [[0x10]]) = .next t := ⟨_, rfl⟩

/-- A running block with the trace of vector SC-1 and a request issued meets the invariant, and its step leaves the
command frame in the trace. -/
theorem witness_NoCommandWithoutWake :
    ∃ s t : State, BlockInv s ∧ step s = .next t ∧
      t.trace = attemptEvents t.config (.data t.config.wakeAck) ++
        [.write (buildFrame t.config 0x1B 0x00 0x0000 []) .ok] ++ [] := by
  refine ⟨{ issued [[0x10]] with
    belief := .awake
    trace := attemptEvents Config.spec (.data Config.spec.wakeAck) ++
      [.write (buildFrame Config.spec 0x1B 0x00 0x0000 []) .ok] }, _, ⟨?_, ?_, ?_, ?_, ?_, ?_, ?_⟩, rfl, rfl⟩
  · decide +kernel
  · exact .commandFrame [] 0x1B 0x00 0x0000 [] .ok .empty (by decide)
  · decide +kernel
  all_goals simp [issued, State.reset]

theorem witness_CommandCycleCompletes :
    BusFree (answering [ack, ack] [.ok, .ok]) ∧ configValid (answering [ack, ack] [.ok, .ok]).config ∧
    ([] : List Byte).length ≤ maxPayloadOf (answering [ack, ack] [.ok, .ok]).config 0x1B ∧
    (List.replicate 255 (0x00 : Byte)).length ≤ 255 ∧
    (answering [ack, ack] [.ok, .ok]).env.reads = .data Config.spec.wakeAck :: .data Config.spec.wakeAck :: [] ∧
    (answering [ack, ack] [.ok, .ok]).env.writes = .ok :: .ok :: [] := by decide +kernel

/-- A running block with a request issued meets the invariant and has a next step. -/
theorem witness_EveryStepKeepsTheInvariant :
    BlockInv (issued [[0x10]]) ∧ ∃ t, step (issued [[0x10]]) = .next t :=
  ⟨⟨by decide +kernel, .empty, rfl, by simp [issued, State.reset], by simp [issued, State.reset],
    by simp [issued, State.reset], by simp [issued, State.reset]⟩, _, rfl⟩

end Sys2Proof.Tests
end

/-! PROOF. What a request reads and what it writes, said once: a request makes one and the same change to every state
that agrees on the fields it reads. That no request reads `crc_reg` (but CRC_BYTE), `belief` or `trace` is read off
from there. -/

namespace Sys2Proof.Machine

/-- The CRC requests (rules R105 to R107). -/
abbrev crcKinds : List Kind := [.crcClear, .crcByte, .crcCompute]

/-- What a request writes: new field values, none for a field that is left alone, and the events it appends. -/
structure Change where
  crcReg      : Option Half := none
  belief      : Option Belief := none
  outstanding : Option Bool := none
  fault       : Option FaultReason := none
  events      : List Event := []
  result      : Option Result := none
  env         : Option Environment := none

/-- The state after a change. -/
def Change.apply (d : Change) (s : State) : State :=
  { s with
    crcReg      := d.crcReg.getD s.crcReg
    belief      := d.belief.getD s.belief
    outstanding := d.outstanding.getD s.outstanding
    fault       := d.fault <|> s.fault
    trace       := s.trace ++ d.events
    result      := d.result
    env         := d.env.getD s.env }

/-- The two states agree on every field that `i` reads. -/
structure AgreeFor (i : Instr) (s s' : State) : Prop where
  fault       : s'.fault = s.fault
  outstanding : s'.outstanding = s.outstanding
  config      : s'.config = s.config
  env         : s'.env = s.env
  crcReg      : i.kind = .crcByte → s'.crcReg = s.crcReg

theorem AgreeFor.refl (i : Instr) (s : State) : AgreeFor i s s := ⟨rfl, rfl, rfl, rfl, fun _ => rfl⟩

/-- `f` makes one change to all states that agree with `s` for `i`, and writes `crc_reg` only for a CRC request. -/
def MakesOneChange (i : Instr) (f : State → State) (s : State) : Prop :=
  ∃ d : Change, (i.kind ∉ crcKinds → d.crcReg = none) ∧ ∀ s', AgreeFor i s s' → f s' = d.apply s'

theorem makesOneChange_raiseFault (i : Instr) (reason : FaultReason) (s : State) :
    MakesOneChange i (raiseFault reason) s :=
  ⟨{ fault := some reason }, fun _ => rfl, fun s' _ => by simp [raiseFault, Change.apply]⟩

/-- The handshake reads the configuration and the environment and nothing else, under any configuration. -/
theorem tryWake_reads_config_env (n : Nat) (c : Config) (e : Environment) :
    ∃ r events e' b, ∀ s : State, s.config = c → s.env = e →
      tryWake n s = (r, { s with trace := s.trace ++ events, env := e', belief := b }) := by
  induction n generalizing e with
  | zero => exact ⟨⟨.wakeFailure, []⟩, [], e, .sleep, fun s _ he => by simp [tryWake, ← he]⟩
  | succ n ih =>
    cases hack : acknowledgment c (e.nextRead 4) with
    | some r =>
      refine ⟨⟨.ok, r⟩, attemptEvents c (e.nextRead 4), e.afterRead, .awake, fun s hc he => ?_⟩
      subst hc he
      simp [tryWake, hack, wakeAttempt_state]
    | none =>
      obtain ⟨r, events, e', b, h⟩ := ih e.afterRead
      refine ⟨r, attemptEvents c (e.nextRead 4) ++ events, e', b, fun s hc he => ?_⟩
      subst hc he
      have hnext := h (wakeAttempt s).2 (by simp [wakeAttempt_state]) (by simp [wakeAttempt_state])
      have hretry : tryWake (n + 1) s = tryWake n (wakeAttempt s).2 := by simp [tryWake, hack]
      rw [hretry, hnext]
      simp [wakeAttempt_state]

theorem makesOneChange_wake (s : State) : MakesOneChange .wake wake s := by
  obtain ⟨r, events, e, b, h⟩ := tryWake_reads_config_env s.config.wakeAttempts s.config s.env
  refine ⟨{ belief := some b, events := events, result := some r, env := some e }, fun _ => rfl, fun s' ha => ?_⟩
  simp [wake, wakeHandshake, ha.config, h s' ha.config ha.env, returnResult, Change.apply]

theorem makesOneChange_idle (s : State) : MakesOneChange .idle idle s := by
  cases hw : s.env.nextWrite with
  | ok =>
    refine ⟨{ belief := some .idle, env := some s.env.afterWrite
              events := [.write [s.config.waIdle] .ok], result := some ⟨.ok, []⟩ }, fun _ => rfl, fun s' ha => ?_⟩
    simp [idle, writeBytes, emit, returnResult, ha.config, ha.env, hw, Change.apply]
  | err =>
    refine ⟨{ env := some s.env.afterWrite, events := [.write [s.config.waIdle] .err]
              result := some ⟨.transportError, []⟩ }, fun _ => rfl, fun s' ha => ?_⟩
    simp [idle, writeBytes, emit, returnResult, ha.config, ha.env, hw, Change.apply]

/-- The change is that of the size check, of a failed handshake, or of a handshake and the frame's write (rule R152). -/
theorem makesOneChange_sendCommand (op p1 : Byte) (p2 : Half) (payload : List Byte) (s : State) :
    MakesOneChange (.sendCommand op p1 p2 payload) (sendCommand op p1 p2 payload) s := by
  by_cases hlarge : payload.length > maxPayloadOf s.config op
  · refine ⟨{ result := some ⟨.frameTooLarge, []⟩ }, fun _ => rfl, fun s' ha => ?_⟩
    simp [sendCommand, ha.config, hlarge, returnResult, Change.apply]
  obtain ⟨r, events, e, b, h⟩ := tryWake_reads_config_env s.config.wakeAttempts s.config s.env
  by_cases hfail : r.code = .wakeFailure
  · refine ⟨{ belief := some b, env := some e, events := events, result := some ⟨.wakeFailure, []⟩ },
      fun _ => rfl, fun s' ha => ?_⟩
    simp [sendCommand, wakeHandshake, ha.config, hlarge, h s' ha.config ha.env, hfail, returnResult, Change.apply]
  obtain ⟨frame, hframe⟩ : ∃ frame, buildFrame s.config op p1 p2 payload = frame := ⟨_, rfl⟩
  have hsend (s' : State) (ha : AgreeFor (.sendCommand op p1 p2 payload) s s') :
      sendCommand op p1 p2 payload s' =
        transmit frame { s' with trace := s'.trace ++ events, env := e, belief := b } := by
    simp [sendCommand, wakeHandshake, ha.config, hlarge, h s' ha.config ha.env, hfail, hframe]
  cases hw : e.nextWrite with
  | ok =>
    refine ⟨{ belief := some b, outstanding := some true, env := some e.afterWrite
              events := events ++ [.write frame .ok], result := some ⟨.ok, frame⟩ }, fun _ => rfl, fun s' ha => ?_⟩
    simp [hsend s' ha, transmit, writeBytes, emit, hw, returnResult, Change.apply]
  | err =>
    refine ⟨{ belief := some b, env := some e.afterWrite
              events := events ++ [.write frame .err], result := some ⟨.transportError, []⟩ },
      fun _ => rfl, fun s' ha => ?_⟩
    simp [hsend s' ha, transmit, writeBytes, emit, hw, returnResult, Change.apply]

/-- A CRC request that sets `crc_reg` to `f s`, where `f s` depends on `crc_reg` at most for CRC_BYTE. -/
theorem makesOneChange_setCrc {i : Instr} (hi : i.kind ∈ crcKinds) (f : State → Half) (s : State)
    (hf : ∀ s', AgreeFor i s s' → f s' = f s) : MakesOneChange i (fun s => setCrc (f s) s) s :=
  ⟨{ crcReg := some (f s), result := some ⟨.ok, le16 (f s)⟩ }, fun h => absurd hi h,
    fun s' ha => by simp [setCrc, returnResult, hf s' ha, Change.apply]⟩

theorem makesOneChange_checkResponse (maxc : Byte) (bytes : List Byte) (s : State) :
    MakesOneChange (.checkResponse maxc bytes) (checkResponse maxc bytes) s :=
  ⟨{ outstanding := some false, result := some (frameCheck maxc bytes) }, fun _ => rfl,
    fun s' _ => by simp [checkResponse, returnResult, Change.apply]⟩

/-- What a request does once it has passed the tests that stand before its own work. -/
def work : Instr → State → State
  | .wake => wake
  | .idle => idle
  | .sendCommand op p1 p2 payload => sendCommand op p1 p2 payload
  | .crcClear => fun s => setCrc Config.crcInit s
  | .crcByte b => fun s => setCrc (crcStep s.crcReg b) s
  | .crcCompute bytes => fun s => setCrc (crc16 bytes) s
  | .checkResponse maxc bytes => checkResponse maxc bytes

theorem makesOneChange_work (i : Instr) (s : State) : MakesOneChange i (work i) s := by
  cases i with
  | wake => exact makesOneChange_wake s
  | idle => exact makesOneChange_idle s
  | sendCommand op p1 p2 payload => exact makesOneChange_sendCommand op p1 p2 payload s
  | crcClear => exact makesOneChange_setCrc (by simp [Instr.kind]) (fun _ => Config.crcInit) s fun _ _ => rfl
  | crcByte b =>
    exact makesOneChange_setCrc (by simp [Instr.kind]) (fun s => crcStep s.crcReg b) s
      fun s' ha => by simp [ha.crcReg rfl]
  | crcCompute bytes => exact makesOneChange_setCrc (by simp [Instr.kind]) (fun _ => crc16 bytes) s fun _ _ => rfl
  | checkResponse maxc bytes => exact makesOneChange_checkResponse maxc bytes s

/-- Of the state, only `outstanding` decides whether a request in a running block faults or does its work (rule R205). -/
theorem effect_decided_by_outstanding (i : Instr) (s : State) :
    ∃ f, (f = work i ∨ ∃ reason, f = raiseFault reason) ∧
      ∀ s' t : State, s'.outstanding = s.outstanding → (Effect i s' t ↔ t = f s') := by
  cases i with
  | wake | idle =>
    cases ho : s.outstanding with
    | false => exact ⟨_, .inl rfl, fun s' t h => by simp [Effect, work, h]⟩
    | true => exact ⟨raiseFault .busy, .inr ⟨_, rfl⟩, fun s' t h => by simp [Effect, h]⟩
  | sendCommand op p1 p2 payload =>
    by_cases hl : payload.length ≤ 255
    · cases ho : s.outstanding with
      | false => exact ⟨_, .inl rfl, fun s' t h => by simp [Effect, work, h, hl, Nat.not_lt.mpr hl]⟩
      | true => exact ⟨raiseFault .busy, .inr ⟨_, rfl⟩, fun s' t h => by simp [Effect, h, hl, Nat.not_lt.mpr hl]⟩
    · exact ⟨raiseFault .reserved, .inr ⟨_, rfl⟩, fun s' t _ => by simp [Effect, hl, Nat.not_le.mp hl]⟩
  | crcClear | crcByte b => exact ⟨_, .inl rfl, fun s' t _ => by simp [Effect, work]⟩
  | crcCompute bytes =>
    by_cases hl : bytes.length ≤ 65535
    · exact ⟨_, .inl rfl, fun s' t _ => by simp [Effect, work, hl, Nat.not_lt.mpr hl]⟩
    · exact ⟨raiseFault .reserved, .inr ⟨_, rfl⟩, fun s' t _ => by simp [Effect, hl, Nat.not_le.mp hl]⟩
  | checkResponse maxc bytes =>
    by_cases hl : bytes.length ≤ 255
    · exact ⟨_, .inl rfl, fun s' t _ => by simp [Effect, work, hl, Nat.not_lt.mpr hl]⟩
    · exact ⟨raiseFault .reserved, .inr ⟨_, rfl⟩, fun s' t _ => by simp [Effect, hl, Nat.not_le.mp hl]⟩

/-- A request that has a next state makes one change to all states that agree on what it reads. -/
theorem exec_makes_one_change {i : Instr} {s t : State} (h : exec i s = .next t) :
    ∃ d : Change, t = d.apply s ∧ (i.kind ∉ crcKinds → d.crcReg = none) ∧
      ∀ s', AgreeFor i s s' → exec i s' = .next (d.apply s') := by
  obtain ⟨hrun, heff⟩ := exec_next_iff.mp h
  obtain ⟨f, hf, hdecided⟩ := effect_decided_by_outstanding i s
  have hchange : MakesOneChange i f s := by
    rcases hf with rfl | ⟨reason, rfl⟩
    · exact makesOneChange_work i s
    · exact makesOneChange_raiseFault i reason s
  obtain ⟨d, hcrc, hd⟩ := hchange
  refine ⟨d, ?_, hcrc, fun s' ha => exec_next_iff.mpr ⟨ha.fault.trans hrun, ?_⟩⟩
  · rw [← hd s (.refl i s)]
    exact (hdecided s t rfl).mp heff
  · exact (hdecided s' _ ha.outstanding).mpr (hd s' ha).symm

end Sys2Proof.Machine

/-! PROOF. The block state field by field (10_state.md rules R21 to R25): who writes each field, and who reads it. -/

namespace Sys2Proof.Machine

/-! ### `crc_reg` and `trace` (rules R21, R25) -/

/-- Settles O18: the CRC requests by what `Effect` says of them, the others by the one change they make, which leaves
`crc_reg` alone. -/
theorem crcRegisterBelongsToCrcRequests : Obligations.CrcRegisterBelongsToCrcRequests := by
  unfold Obligations.CrcRegisterBelongsToCrcRequests
  refine ⟨fun i s t h hfault hkind => ?_, fun i s t v h hkind => ?_, rfl⟩
  · obtain ⟨-, heff⟩ := exec_next_iff.mp h
    cases i with
    | wake | idle | sendCommand | checkResponse => simp [Instr.kind] at hkind
    | crcClear | crcByte => cases heff; rfl
    | crcCompute bytes =>
      rcases heff with ⟨-, rfl⟩ | ⟨-, rfl⟩
      · simp at hfault
      · rfl
  · obtain ⟨d, rfl, hcrc, hd⟩ := exec_makes_one_change h
    have hkeep : d.crcReg = none := hcrc hkind
    refine ⟨by simp [Change.apply, hkeep], ?_⟩
    rw [hd { s with crcReg := v } ⟨rfl, rfl, rfl, rfl, fun hbyte => absurd (by simp [hbyte]) hkind⟩]
    simp [Change.apply, hkeep]

/-- Settles O34: the primitives by their definitions, the requests by the one change they make, whose events are the
same from any trace. -/
theorem traceIsAppendedAndNeverRead : Obligations.TraceIsAppendedAndNeverRead := by
  unfold Obligations.TraceIsAppendedAndNeverRead
  refine ⟨fun us s => ⟨rfl, rfl⟩, fun bytes s => rfl, fun n s => rfl, fun i s t other h => ?_, rfl⟩
  obtain ⟨d, rfl, -, hd⟩ := exec_makes_one_change h
  exact ⟨d.events, rfl, hd { s with trace := other } ⟨rfl, rfl, rfl, rfl, fun _ => rfl⟩⟩

/-! ### `outstanding` (rule R23) -/

/-- Everything SEND_COMMAND can do with the bus free (rule R152). -/
theorem sendCommand_cases (op p1 : Byte) (p2 : Half) (payload : List Byte) (s : State) (hc : configValid s.config) :
    sendCommand op p1 p2 payload s = returnResult ⟨.frameTooLarge, []⟩ s ∨
    (NeverWakes s ∧ sendCommand op p1 p2 payload s =
      returnResult ⟨.wakeFailure, []⟩ (afterHandshake s.config.wakeAttempts .sleep s)) ∨
    (∃ k, WakesAt s k ∧ sendCommand op p1 p2 payload s =
      transmit (buildFrame s.config op p1 p2 payload) (afterHandshake k .awake s)) := by
  unfold sendCommand
  split
  · exact .inl rfl
  · rcases wakeHandshake_cases s hc with ⟨k, hk, h⟩ | ⟨hn, h⟩
    · exact .inr (.inr ⟨k, hk, by simp [h]⟩)
    · exact .inr (.inl ⟨hn, by simp [h]⟩)

/-- A handshake writes nothing. -/
theorem write_not_mem_handshakeEvents (c : Config) (e : Environment) (k : Nat) (bytes : List Byte)
    (answer : WriteAnswer) : .write bytes answer ∉ handshakeEvents c e k := by
  simp [handshakeEvents, attemptEvents]

/-- That a trace has grown by events of which the last is `e` is a matter of those events alone. -/
theorem exists_append_eq_iff_getLast? (tr new : List Event) (e : Event) :
    (∃ before, tr ++ new = tr ++ before ++ [e]) ↔ new.getLast? = some e := by
  simp [List.getLast?_eq_some_iff]

/-- SEND_COMMAND leaves a command outstanding exactly when its last event is its frame's successful write. -/
theorem sendCommand_outstanding_iff (op p1 : Byte) (p2 : Half) (payload : List Byte) (s : State)
    (hfree : s.outstanding = false) (hc : configValid s.config) :
    (sendCommand op p1 p2 payload s).outstanding = true ↔
      ∃ before, (sendCommand op p1 p2 payload s).trace =
        s.trace ++ before ++ [.write (buildFrame s.config op p1 p2 payload) .ok] := by
  rcases sendCommand_cases op p1 p2 payload s hc with h | ⟨-, h⟩ | ⟨k, -, h⟩
  · simp [h, hfree]
  · have hlast : (handshakeEvents s.config s.env s.config.wakeAttempts).getLast? ≠
        some (.write (buildFrame s.config op p1 p2 payload) .ok) := fun hl =>
      write_not_mem_handshakeEvents _ _ _ _ _ (List.mem_of_getLast? hl)
    simp only [h, returnResult_outstanding, returnResult_trace, afterHandshake_outstanding, afterHandshake_trace,
      hfree, exists_append_eq_iff_getLast?, hlast, Bool.false_eq_true]
  · rcases transmit_cases (buildFrame s.config op p1 p2 payload) (afterHandshake k .awake s) with
      ⟨-, hw⟩ | ⟨-, hw⟩ <;>
    simp [h, hw, hfree]

/-- The handshake leaves `outstanding` alone. -/
@[simp] theorem wake_outstanding (s : State) : (wake s).outstanding = s.outstanding := by
  obtain ⟨tr, e, b, h⟩ := tryWake_frame s.config.wakeAttempts s
  simp [wake, wakeHandshake, h]

@[simp] theorem idle_outstanding (s : State) : (idle s).outstanding = s.outstanding := by
  rcases idle_cases s with ⟨-, h⟩ | ⟨-, h⟩ <;> rw [h]

/-- A request other than SEND_COMMAND and CHECK_RESPONSE leaves `outstanding` alone (rule R23). -/
theorem effect_keeps_outstanding {i : Instr} {s t : State} (hi : i.kind ∉ [Kind.sendCommand, .checkResponse])
    (h : Effect i s t) : t.outstanding = s.outstanding := by
  cases i with
  | wake | idle => rcases h with ⟨-, rfl⟩ | ⟨-, rfl⟩ <;> simp
  | crcClear | crcByte => cases h; simp
  | crcCompute => rcases h with ⟨-, rfl⟩ | ⟨-, rfl⟩ <;> simp
  | sendCommand | checkResponse => simp [Instr.kind] at hi

/-- A well-formed bus request made while a command is outstanding faults with F_BUSY (rule R235). -/
theorem effect_raises_busy {i : Instr} {s : State} (ho : s.outstanding = true) (hwf : i.wellFormed = true)
    (hbus : i.usesBus = true) : Effect i s (raiseFault .busy s) := by
  cases i with
  | wake | idle => exact .inl ⟨ho, rfl⟩
  | sendCommand => exact .inr (.inl ⟨by simpa [Instr.wellFormed] using hwf, ho, rfl⟩)
  | crcClear | crcByte | crcCompute | checkResponse => simp [Instr.usesBus] at hbus

/-- Settles O32, clause by clause from what `Effect` says of each request. -/
theorem outstandingTracksTheCommand : Obligations.OutstandingTracksTheCommand := by
  unfold Obligations.OutstandingTracksTheCommand
  refine ⟨fun op p1 p2 payload s t hfree hc h => ?_, fun maxc bytes s t hl h => ?_, fun i s t hi h => ?_,
    fun i s hrun ho hwf hbus => ?_, rfl⟩
  · obtain ⟨-, heff⟩ := exec_next_iff.mp h
    obtain ⟨-, hout⟩ := hfree
    rcases heff with ⟨-, rfl⟩ | ⟨-, ho, -⟩ | ⟨-, -, rfl⟩
    · simp [hout]
    · simp [hout] at ho
    · exact sendCommand_outstanding_iff op p1 p2 payload s hout hc
  · obtain ⟨-, ⟨hlong, -⟩ | ⟨-, rfl⟩⟩ := exec_next_iff.mp h
    · omega
    · rfl
  · exact effect_keeps_outstanding hi (exec_next_iff.mp h).2
  · exact exec_next_iff.mpr ⟨hrun, effect_raises_busy ho hwf hbus⟩

/-! ### `belief` (rule R22) -/

/-- What a request leaves `belief` at, by its kind and the code it returns (rules R22, R129). -/
def beliefAfter (i : Instr) (code : Option ResultCode) (b : Belief) : Belief :=
  match i, code with
  | .wake, some .ok => .awake
  | .wake, some .wakeFailure => .sleep
  | .sendCommand _ _ _ _, some .ok => .awake
  | .sendCommand _ _ _ _, some .transportError => .awake
  | .sendCommand _ _ _ _, some .wakeFailure => .sleep
  | .idle, some .ok => .idle
  | _, _ => b

/-- Every request leaves `belief` at what its kind and its result code say. -/
theorem effect_belief {i : Instr} {s t : State} (h : Effect i s t) (hc : configValid s.config) :
    t.belief = beliefAfter i (t.result.map (·.code)) s.belief := by
  cases i with
  | wake =>
    rcases h with ⟨-, rfl⟩ | ⟨-, rfl⟩
    · rfl
    · rcases wakeHandshake_cases s hc with ⟨k, -, h⟩ | ⟨-, h⟩ <;> simp [wake, h, beliefAfter]
  | idle =>
    rcases h with ⟨-, rfl⟩ | ⟨-, rfl⟩
    · rfl
    · rcases idle_cases s with ⟨-, h⟩ | ⟨-, h⟩ <;> simp [h, beliefAfter]
  | sendCommand op p1 p2 payload =>
    rcases h with ⟨-, rfl⟩ | ⟨-, -, rfl⟩ | ⟨-, -, rfl⟩
    · rfl
    · rfl
    · rcases sendCommand_cases op p1 p2 payload s hc with h | ⟨-, h⟩ | ⟨k, -, h⟩
      · simp [h, beliefAfter]
      · simp [h, beliefAfter]
      · rcases transmit_cases (buildFrame s.config op p1 p2 payload) (afterHandshake k .awake s) with
          ⟨-, hw⟩ | ⟨-, hw⟩ <;> simp [h, hw, beliefAfter]
  | crcClear | crcByte => cases h; rfl
  | crcCompute | checkResponse => rcases h with ⟨-, rfl⟩ | ⟨-, rfl⟩ <;> rfl

/-- Settles O33: the values by what `Effect` says of each request, the rest by the one change a request makes, which
sets `belief` to one value or leaves it. -/
theorem beliefIsWrittenAndNeverRead : Obligations.BeliefIsWrittenAndNeverRead := by
  unfold Obligations.BeliefIsWrittenAndNeverRead
  refine ⟨⟨rfl, rfl, rfl, fun b => by cases b <;> decide, by decide⟩, fun i s t h hc => ?_,
    fun i s t b h => ?_, rfl⟩
  · exact effect_belief (exec_next_iff.mp h).2 hc
  · obtain ⟨d, rfl, -, hd⟩ := exec_makes_one_change h
    refine ⟨d.belief.getD b, hd { s with belief := b } ⟨rfl, rfl, rfl, rfl, fun _ => rfl⟩, ?_⟩
    cases hb : d.belief with
    | none => exact .inr ⟨rfl, by simp [Change.apply, hb]⟩
    | some b' => exact .inl (by simp [Change.apply, hb])

end Sys2Proof.Machine

/-! PROOF. The serialised form and the operand ranges of requests (30_encoding.md rules R60 to R62). -/

namespace Sys2Proof

/-- A sequence behind its own length byte, whole. -/
theorem takeBytes_ofNat_length {w : Nat} {p : List Byte} (h : p.length < 2 ^ w) :
    takeBytes (BitVec.ofNat w p.length).toNat p = some (p, []) := by
  rw [BitVec.toNat_ofNat, Nat.mod_eq_of_lt h]
  simp [takeBytes]

/-- The operand bytes of a well-formed request are read back whole (rules R61, R62). -/
theorem decodeOperands_encodeOperands {i : Instr} (h : i.wellFormed = true) :
    decodeOperands i.kind (encodeOperands i) = some (i, []) := by
  cases i with
  | wake | idle | crcClear | crcByte => rfl
  | sendCommand op p1 p2 payload =>
    have hl : payload.length ≤ 255 := by simpa [Instr.wellFormed] using h
    have hp := takeBytes_ofNat_length (w := 8) (p := payload) (by omega)
    simp [Instr.kind, encodeOperands, le16, decodeOperands, -BitVec.toNat_ofNat, hp]
  | crcCompute bytes =>
    have hl : bytes.length ≤ 65535 := by simpa [Instr.wellFormed] using h
    have hp := takeBytes_ofNat_length (w := 16) (p := bytes) (by omega)
    simp [Instr.kind, encodeOperands, le16, decodeOperands, -BitVec.toNat_ofNat, hp]
  | checkResponse maxc bytes =>
    have hl : bytes.length ≤ 255 := by simpa [Instr.wellFormed] using h
    have hp := takeBytes_ofNat_length (w := 8) (p := bytes) (by omega)
    simp [Instr.kind, encodeOperands, decodeOperands, -BitVec.toNat_ofNat, hp]

/-- A well-formed request is decoded from its serialised form (rules R60 to R62). -/
theorem decode_encode {i : Instr} (h : i.wellFormed = true) : decode (encode i) = .ok i := by
  simp [decode, encode, decodeOperands_encodeOperands h]

/-- What can be out of range is the length of one of the three sequences (rule R62). -/
theorem wellFormed_eq_false_iff (i : Instr) : i.wellFormed = false ↔
    (∃ op p1 p2 payload, i = .sendCommand op p1 p2 payload ∧ 255 < payload.length) ∨
    (∃ bytes, i = .crcCompute bytes ∧ 65535 < bytes.length) ∨
    (∃ maxc bytes, i = .checkResponse maxc bytes ∧ 255 < bytes.length) := by
  cases i <;> simp [Instr.wellFormed]

end Sys2Proof

namespace Sys2Proof.Machine

/-- A request with an operand out of range faults with F_RESERVED (rule R62). -/
theorem effect_raises_reserved {i : Instr} (s : State) (h : i.wellFormed = false) :
    Effect i s (raiseFault .reserved s) := by
  rcases (wellFormed_eq_false_iff i).mp h with
    ⟨op, p1, p2, payload, rfl, hl⟩ | ⟨bytes, rfl, hl⟩ | ⟨maxc, bytes, rfl, hl⟩ <;>
  exact .inl ⟨hl, rfl⟩

/-- The size check of SEND_COMMAND (rule R151). -/
theorem sendCommand_of_too_large {op : Byte} {payload : List Byte} {s : State}
    (h : maxPayloadOf s.config op < payload.length) (p1 : Byte) (p2 : Half) :
    sendCommand op p1 p2 payload s = returnResult ⟨.frameTooLarge, []⟩ s :=
  if_pos h

/-- Settles O5: the forms out of range, the fault, the decoder's round trip, and the size check one after another. -/
theorem operandRanges : Obligations.OperandRanges := by
  unfold Obligations.OperandRanges
  refine ⟨wellFormed_eq_false_iff, fun i s hrun h => ?_, fun i h => ⟨i, decode_encode h⟩,
    fun op p1 p2 payload s hfree hl hlarge => ?_⟩
  · exact exec_next_iff.mpr ⟨hrun, effect_raises_reserved s h⟩
  · obtain ⟨hrun, hout⟩ := hfree
    exact exec_next_iff.mpr ⟨hrun, .inr (.inr ⟨hl, hout, (sendCommand_of_too_large hlarge p1 p2).symm⟩)⟩

end Sys2Proof.Machine

/-! PROOF. Response frames (rules R71, R72, R180): the check on a frame cut into count, data and trailing bytes. -/

namespace Sys2Proof.Machine

/-- `r` is a count byte within the bound, at least one data byte and two more bytes, of the length the count says. -/
def FrameShape (maxc : Byte) (r : List Byte) (count : Byte) (data crc : List Byte) : Prop :=
  r = count :: data ++ crc ∧ crc.length = 2 ∧ 1 ≤ data.length ∧ data.length + 3 = count.toNat ∧
    count.toNat ≤ maxc.toNat

/-- The check calls malformed whatever has not the shape of a frame (rule R180). -/
theorem frameCheck_malformed_or_shape (maxc : Byte) (r : List Byte) :
    frameCheck maxc r = ⟨.malformedResponse, []⟩ ∨ ∃ count data crc, FrameShape maxc r count data crc := by
  cases r with
  | nil => exact .inl rfl
  | cons count rest =>
    by_cases hcount : count.toNat < 4 ∨ count.toNat > maxc.toNat
    · exact .inl (by simp [frameCheck, hcount])
    by_cases hlen : rest.length + 1 = count.toNat
    · have hdata : (rest.take (rest.length - 2)).length = rest.length - 2 := by simp
      have hcrc : (rest.drop (rest.length - 2)).length = 2 := by simp; omega
      exact .inr ⟨count, rest.take (rest.length - 2), rest.drop (rest.length - 2), by simp, hcrc,
        by omega, by omega, by omega⟩
    · exact .inl (by simp [frameCheck, hcount, hlen])

/-- What has the shape of a frame is decided by its CRC alone (rule R180). -/
theorem frameCheck_of_shape {maxc count : Byte} {r data crc : List Byte} (h : FrameShape maxc r count data crc) :
    frameCheck maxc r =
      if le16 (crc16 (count :: data)) = crc then ⟨.ok, data⟩ else ⟨.checksumMismatch, []⟩ := by
  obtain ⟨rfl, hcrc, hdata, hlen, hmax⟩ := h
  have hcount : ¬(count.toNat < 4 ∨ count.toNat > maxc.toNat) := by omega
  have hcut : count.toNat - 2 = (count :: data).length := by simp; omega
  have htotal : (count :: (data ++ crc)).length = count.toNat := by simp; omega
  have htake : (count :: (data ++ crc)).take (count.toNat - 2) = count :: data := by
    rw [hcut, ← List.cons_append, List.take_left]
  have hdrop : (count :: (data ++ crc)).drop (count.toNat - 2) = crc := by
    rw [hcut, ← List.cons_append, List.drop_left]
  simp [frameCheck, hcount, htotal, htake, hdrop]

/-- Settles O20: an accepted input has the shape of a frame, and of such inputs the CRC singles out the accepted. -/
theorem checkAcceptsExactlyValidFrames : Obligations.CheckAcceptsExactlyValidFrames := by
  unfold Obligations.CheckAcceptsExactlyValidFrames
  refine fun maxc r data => ⟨fun h => ?_, fun ⟨hdata, hmax, hr⟩ => ?_⟩
  · rcases frameCheck_malformed_or_shape maxc r with hbad | ⟨count, data', crc, hshape⟩
    · simp [hbad] at h
    rw [frameCheck_of_shape hshape] at h
    obtain ⟨rfl, -, hdata, hlen, hmax⟩ := hshape
    split at h
    next hcrc =>
      obtain rfl : data' = data := by simpa using h
      obtain rfl : count = BitVec.ofNat 8 (3 + data'.length) := by
        rw [Nat.add_comm, hlen, BitVec.ofNat_toNat, BitVec.setWidth_eq]
      exact ⟨hdata, by omega, by rw [hcrc]⟩
    next => simp at h
  · have hcount : (BitVec.ofNat 8 (3 + data.length)).toNat = 3 + data.length := by
      rw [BitVec.toNat_ofNat, Nat.mod_eq_of_lt (by omega)]
    rw [frameCheck_of_shape ⟨hr, le16_length _, hdata, by omega, by omega⟩, if_pos rfl]

/-- Settles O23: the CRC is computed, and the frame is then one the check accepts. -/
theorem wakeAckIsAValidFrame : Obligations.WakeAckIsAValidFrame := by
  unfold Obligations.WakeAckIsAValidFrame
  have hcrc : crc16 [0x04, 0x11] = 0x4333 := by decide +kernel
  have hbytes : le16 0x4333 = [0x33, 0x43] := by decide
  refine ⟨rfl, hcrc, hbytes, (checkAcceptsExactlyValidFrames 0x04 _ [0x11]).mpr ⟨by decide, by decide, ?_⟩⟩
  change _ = [0x04, 0x11] ++ le16 (crc16 [0x04, 0x11])
  rw [hcrc, hbytes]
  rfl

end Sys2Proof.Machine

/-! PROOF. What goes on the bus (rules R64 to R67, R69, R74, R128, R150): the bytes of a command frame, the idle
frame, and the events each request may issue. -/

namespace Sys2Proof.Machine

/-! ### The bytes of frames -/

/-- Every payload bound is at most 248 (rule R6). -/
theorem maxPayloadOf_le (c : Config) (op : Byte) : maxPayloadOf c op ≤ 248 :=
  Nat.le_of_lt_succ (Fin.isLt _)

/-- The count of a payload within its bound does not wrap (rule R66). -/
theorem countByte_toNat {c : Config} {op : Byte} {payload : List Byte} (h : payload.length ≤ maxPayloadOf c op) :
    (countByte payload).toNat = 7 + payload.length := by
  have hmax := maxPayloadOf_le c op
  rw [countByte, BitVec.toNat_ofNat, Nat.mod_eq_of_lt (by omega)]

@[simp] theorem buildFrame_length (c : Config) (op p1 : Byte) (p2 : Half) (payload : List Byte) :
    (buildFrame c op p1 p2 payload).length = 8 + payload.length := by
  cases hlayout : c.frameLayout <;> simp [buildFrame, hlayout] <;> omega

/-- The word-address marker is WA_COMMAND in both layouts (rules R64, R65). -/
theorem buildFrame_marker (c : Config) (op p1 : Byte) (p2 : Half) (payload : List Byte) :
    (buildFrame c op p1 p2 payload).getD (markerOffset c.frameLayout) 0 = c.waCommand := by
  cases hlayout : c.frameLayout <;> simp [buildFrame, markerOffset, hlayout]

/-- Settles O26: the layouts are the two branches of the framer. -/
theorem commandFrameBytes : Obligations.CommandFrameBytes := by
  unfold Obligations.CommandFrameBytes
  refine fun c op p1 p2 payload h => ⟨countByte_toNat h, buildFrame_length c op p1 p2 payload, ?_, ?_⟩
  · intro hlayout
    simp only [buildFrame, hlayout]
    rfl
  · intro hlayout
    simp only [buildFrame, hlayout]
    rfl

/-- Settles O25: the busy fault, or the idle frame with either answer. -/
theorem idleWritesTheIdleByte : Obligations.IdleWritesTheIdleByte := by
  unfold Obligations.IdleWritesTheIdleByte
  refine ⟨rfl, fun s hrun => ?_⟩
  by_cases hout : s.outstanding = true
  · rw [if_pos hout]
    exact exec_next_iff.mpr ⟨hrun, .inl ⟨hout, rfl⟩⟩
  · rw [if_neg hout]
    refine exec_next_iff.mpr ⟨hrun, .inr ⟨eq_false_of_ne_true hout, ?_⟩⟩
    rcases idle_cases s with ⟨hw, h⟩ | ⟨hw, h⟩ <;> simp [h, hw]

/-! ### The events a request may issue -/

/-- The handshake appends the events of some number of attempts, under any configuration (rule R125). -/
theorem tryWake_trace (n : Nat) (s : State) :
    ∃ k, (tryWake n s).2.trace = s.trace ++ handshakeEvents s.config s.env k := by
  induction n generalizing s with
  | zero => exact ⟨0, by simp [tryWake, handshakeEvents_zero]⟩
  | succ n ih =>
    unfold tryWake
    split
    · exact ⟨1, by simp [wakeAttempt_state, handshakeEvents_succ, handshakeEvents_zero, readAt]⟩
    · obtain ⟨k, h⟩ := ih (wakeAttempt s).2
      exact ⟨k + 1, by rw [h]; simp [wakeAttempt_state, handshakeEvents_succ, readAt]⟩

/-- An event that a request may issue under a configuration (rules R47, R48, R74). -/
def MayIssue (c : Config) (i : Instr) : Event → Prop
  | .holdLow us => us = c.tWloUs ∧ i.kind ∈ [Kind.wake, .sendCommand]
  | .sleep us => us = c.tWhiUs ∧ i.kind ∈ [Kind.wake, .sendCommand]
  | .read n answer => n = 4 ∧ shortAnswer answer ∧ i.kind ∈ [Kind.wake, .sendCommand]
  | .write bytes _ =>
      (i = .idle ∧ bytes = [c.waIdle]) ∨
      (∃ op p1 p2 payload, i = .sendCommand op p1 p2 payload ∧ bytes = buildFrame c op p1 p2 payload ∧
        bytes.getD (markerOffset c.frameLayout) 0 = c.waCommand)

/-- WAKE and SEND_COMMAND may issue the events of a handshake. -/
theorem mayIssue_of_mem_handshakeEvents {c : Config} {i : Instr} {env : Environment} {k : Nat} {e : Event}
    (hi : i.kind ∈ [Kind.wake, .sendCommand]) (he : e ∈ handshakeEvents c env k) : MayIssue c i e := by
  obtain ⟨j, -, he⟩ := List.mem_flatMap.mp he
  have hshort := shortAnswer_readAt j env
  simp only [attemptEvents, List.mem_cons, List.not_mem_nil, or_false] at he
  rcases he with rfl | rfl | rfl
  · exact ⟨rfl, hi⟩
  · exact ⟨rfl, hi⟩
  · exact ⟨rfl, hshort, hi⟩

/-- `t` has the trace of `s` and after it only events that `i` may issue. -/
def AppendsOnly (i : Instr) (s t : State) : Prop :=
  ∃ new, t.trace = s.trace ++ new ∧ ∀ e ∈ new, MayIssue s.config i e

theorem appendsOnly_of_trace_eq {i : Instr} {s t : State} (h : t.trace = s.trace) : AppendsOnly i s t :=
  ⟨[], by simp [h], by simp⟩

/-- The handshake, for the two requests that run it. -/
theorem appendsOnly_wakeHandshake {i : Instr} (hi : i.kind ∈ [Kind.wake, .sendCommand]) (s : State) :
    AppendsOnly i s (wakeHandshake s).2 := by
  obtain ⟨k, h⟩ := tryWake_trace s.config.wakeAttempts s
  exact ⟨_, h, fun _ => mayIssue_of_mem_handshakeEvents hi⟩

theorem appendsOnly_idle (s : State) : AppendsOnly .idle s (idle s) := by
  refine ⟨[.write [s.config.waIdle] s.env.nextWrite], ?_, ?_⟩
  · rcases idle_cases s with ⟨hw, h⟩ | ⟨hw, h⟩ <;> rw [h, hw]
  · simp [MayIssue]

/-- The write of a frame appends its one event. -/
theorem transmit_trace (frame : List Byte) (s : State) :
    (transmit frame s).trace = s.trace ++ [.write frame s.env.nextWrite] := by
  rcases transmit_cases frame s with ⟨hw, h⟩ | ⟨hw, h⟩ <;> rw [h, hw]

theorem appendsOnly_sendCommand (op p1 : Byte) (p2 : Half) (payload : List Byte) (s : State) :
    AppendsOnly (.sendCommand op p1 p2 payload) s (sendCommand op p1 p2 payload s) := by
  have hwake := appendsOnly_wakeHandshake (i := .sendCommand op p1 p2 payload) (by simp [Instr.kind]) s
  simp only [sendCommand]
  split
  · exact appendsOnly_of_trace_eq rfl
  split
  · exact hwake
  · obtain ⟨new, htrace, hnew⟩ := hwake
    refine ⟨new ++ [.write (buildFrame s.config op p1 p2 payload) (wakeHandshake s).2.env.nextWrite], ?_, ?_⟩
    · rw [transmit_trace, htrace, List.append_assoc]
    · intro e he
      rcases List.mem_append.mp he with he | he
      · exact hnew e he
      · obtain rfl := List.mem_singleton.mp he
        exact .inr ⟨op, p1, p2, payload, rfl, rfl, buildFrame_marker s.config op p1 p2 payload⟩

/-- Every request appends only events it may issue, under any configuration. -/
theorem effect_appendsOnly {i : Instr} {s t : State} (h : Effect i s t) : AppendsOnly i s t := by
  cases i with
  | wake =>
    rcases h with ⟨-, rfl⟩ | ⟨-, rfl⟩
    · exact appendsOnly_of_trace_eq rfl
    · exact appendsOnly_wakeHandshake (by simp [Instr.kind]) s
  | idle =>
    rcases h with ⟨-, rfl⟩ | ⟨-, rfl⟩
    · exact appendsOnly_of_trace_eq rfl
    · exact appendsOnly_idle s
  | sendCommand op p1 p2 payload =>
    rcases h with ⟨-, rfl⟩ | ⟨-, -, rfl⟩ | ⟨-, -, rfl⟩
    · exact appendsOnly_of_trace_eq rfl
    · exact appendsOnly_of_trace_eq rfl
    · exact appendsOnly_sendCommand op p1 p2 payload s
  | crcClear | crcByte => cases h; exact appendsOnly_of_trace_eq rfl
  | crcCompute | checkResponse => rcases h with ⟨-, rfl⟩ | ⟨-, rfl⟩ <;> exact appendsOnly_of_trace_eq rfl

/-- Settles O35: what stands past the old trace is what the request appended. -/
theorem eventsARequestMayIssue : Obligations.EventsARequestMayIssue := by
  unfold Obligations.EventsARequestMayIssue
  intro i s t e h he
  obtain ⟨-, heff⟩ := exec_next_iff.mp h
  obtain ⟨new, htrace, hnew⟩ := effect_appendsOnly heff
  rw [htrace, List.drop_left] at he
  exact hnew e he

end Sys2Proof.Machine

/-! PROOF. The CRC generator (rules R101 to R107): the bit and byte steps, the CRC of a sequence, and the three CRC
requests. -/

namespace Sys2Proof.Machine

/-- The bits of a byte are taken by position, lowest first (rule R42). -/
theorem bitsOf_eq_map_range (d : Byte) : bitsOf d = (List.range 8).map d.getLsbD := rfl

/-- One bit step with its feedback as a comparison: the XOR of two bits is set exactly when they differ (rule R101). -/
theorem crcBit_eq_ite_ne (c : Half) (d : Bool) :
    crcBit c d = if d ≠ c.getLsbD 15 then (c <<< 1) ^^^ 0x8005 else c <<< 1 :=
  if_congr bne_iff_ne rfl rfl

/-- The last byte of a sequence is the last one stepped in (rule R102). -/
theorem crc16_concat (s : List Byte) (b : Byte) : crc16 (s ++ [b]) = crcStep (crc16 s) b :=
  List.foldl_concat crcStep Config.crcInit b s

/-- Settles O12: a byte step folds the bit step over the byte's bit positions, and a sequence's CRC folds the byte
step. -/
theorem crcStepTakesBitsLowFirst : Obligations.CrcStepTakesBitsLowFirst := by
  unfold Obligations.CrcStepTakesBitsLowFirst
  refine ⟨fun c d => ?_, rfl, crc16_concat, fun v => rfl⟩
  rw [crcStep, bitsOf_eq_map_range, List.foldl_map]
  simp only [crcBit_eq_ite_ne]

/-- What a CRC request leaves, field by field: `crc_reg` and the result are new, every other field is the old one. -/
theorem setCrc_eq (v : Half) (s : State) :
    setCrc v s = { s with crcReg := v, result := some ⟨.ok, le16 v⟩ } := rfl

/-- Settles O13: the encodings by definition; the requests by what `Effect` says of them, CRC_COMPUTE within range. -/
theorem crcRequestsSetTheRegister : Obligations.CrcRequestsSetTheRegister := by
  unfold Obligations.CrcRequestsSetTheRegister
  refine ⟨⟨rfl, fun b => rfl, fun bytes => rfl⟩, fun s hrun => ⟨?_, fun b => ?_, fun bytes hl => ?_⟩⟩
  · exact exec_next_iff.mpr ⟨hrun, (setCrc_eq Config.crcInit s).symm⟩
  · exact exec_next_iff.mpr ⟨hrun, (setCrc_eq (crcStep s.crcReg b) s).symm⟩
  · exact exec_next_iff.mpr ⟨hrun, .inr ⟨hl, (setCrc_eq (crc16 bytes) s).symm⟩⟩

end Sys2Proof.Machine

/-! PROOF. The wake handshake (rules R122 to R126): the coming answers fix which of its two endings a handshake has, so
each ending determines what the handshake and WAKE do. -/

namespace Sys2Proof.Machine

/-- The first success of a handshake is one attempt only (rule R125). -/
theorem WakesAt.unique {s : State} {j k : Nat} (hj : WakesAt s j) (hk : WakesAt s k) : j = k := by
  obtain ⟨hj1, -, hjack, hjbefore⟩ := hj
  obtain ⟨hk1, -, hkack, hkbefore⟩ := hk
  rcases lt_trichotomy j k with hlt | heq | hgt
  · exact absurd hjack (hkbefore (j - 1) (by omega))
  · exact heq
  · exact absurd hkack (hjbefore (k - 1) (by omega))

/-- A handshake that succeeds at some attempt does not fail (rule R125). -/
theorem WakesAt.not_neverWakes {s : State} {k : Nat} (h : WakesAt s k) : ¬ NeverWakes s := by
  obtain ⟨h1, hle, hack, -⟩ := h
  exact fun hnever => hnever (k - 1) (by omega) hack

theorem wakesAt_or_neverWakes (s : State) (hc : configValid s.config) : (∃ k, WakesAt s k) ∨ NeverWakes s :=
  (wakeHandshake_cases s hc).imp (fun ⟨k, hk, _⟩ => ⟨k, hk⟩) And.left

theorem wakeHandshake_of_wakesAt {s : State} {k : Nat} (hc : configValid s.config) (h : WakesAt s k) :
    wakeHandshake s = (⟨.ok, s.config.wakeAck⟩, afterHandshake k .awake s) := by
  rcases wakeHandshake_cases s hc with ⟨j, hj, heq⟩ | ⟨hnever, -⟩
  · rw [heq, hj.unique h]
  · exact absurd hnever h.not_neverWakes

theorem wakeHandshake_of_neverWakes {s : State} (hc : configValid s.config) (h : NeverWakes s) :
    wakeHandshake s = (⟨.wakeFailure, []⟩, afterHandshake s.config.wakeAttempts .sleep s) := by
  rcases wakeHandshake_cases s hc with ⟨j, hj, -⟩ | ⟨-, heq⟩
  · exact absurd h hj.not_neverWakes
  · exact heq

/-- WAKE returns what its handshake returned, in the state the handshake left (rule R126). -/
theorem wake_of_wakeHandshake {s t : State} {r : Result} (h : wakeHandshake s = (r, t)) :
    wake s = { t with result := some r } := by
  rw [wake, h]
  rfl

/-- Settles O24: the busy fault, or with the bus free WAKE's handshake in each of its two endings. -/
theorem wakeRunsTheHandshake : Obligations.WakeRunsTheHandshake := by
  unfold Obligations.WakeRunsTheHandshake
  refine ⟨rfl, fun s hrun hc => ⟨fun hout => ?_, wakesAt_or_neverWakes s hc, fun k hout hk => ?_,
    fun hout hnever => ?_⟩⟩
  · exact exec_next_iff.mpr ⟨hrun, .inl ⟨hout, rfl⟩⟩
  · have hwake := wake_of_wakeHandshake (wakeHandshake_of_wakesAt hc hk)
    exact exec_next_iff.mpr ⟨hrun, .inr ⟨hout, hwake.symm⟩⟩
  · have hwake := wake_of_wakeHandshake (wakeHandshake_of_neverWakes hc hnever)
    exact exec_next_iff.mpr ⟨hrun, .inr ⟨hout, hwake.symm⟩⟩

end Sys2Proof.Machine

/-! PROOF. SEND_COMMAND (rules R151, R152): what it comes to in each ending of its handshake. -/

namespace Sys2Proof.Machine

/-- With the bus free and its operands in range SEND_COMMAND does its own work (rule R205). -/
theorem exec_sendCommand_of_busFree {s : State} {payload : List Byte} (hfree : BusFree s)
    (hl : payload.length ≤ 255) (op p1 : Byte) (p2 : Half) :
    exec (.sendCommand op p1 p2 payload) s = .next (sendCommand op p1 p2 payload s) := by
  obtain ⟨hrun, hout⟩ := hfree
  exact exec_next_iff.mpr ⟨hrun, .inr (.inr ⟨hl, hout, rfl⟩)⟩

/-- A failed handshake ends SEND_COMMAND, with nothing written (rule R152). -/
theorem sendCommand_of_neverWakes {op : Byte} {payload : List Byte} {s : State} (hc : configValid s.config)
    (hfit : payload.length ≤ maxPayloadOf s.config op) (hnever : NeverWakes s) (p1 : Byte) (p2 : Half) :
    sendCommand op p1 p2 payload s =
      returnResult ⟨.wakeFailure, []⟩ (afterHandshake s.config.wakeAttempts .sleep s) := by
  simp [sendCommand, Nat.not_lt.mpr hfit, wakeHandshake_of_neverWakes hc hnever]

/-- After a successful handshake SEND_COMMAND writes its frame (rule R152). -/
theorem sendCommand_of_wakesAt {op : Byte} {payload : List Byte} {s : State} {k : Nat} (hc : configValid s.config)
    (hfit : payload.length ≤ maxPayloadOf s.config op) (hk : WakesAt s k) (p1 : Byte) (p2 : Half) :
    sendCommand op p1 p2 payload s =
      transmit (buildFrame s.config op p1 p2 payload) (afterHandshake k .awake s) := by
  simp [sendCommand, Nat.not_lt.mpr hfit, wakeHandshake_of_wakesAt hc hk]

/-- Settles O29: the two faults, then with the bus free the size check, the failed handshake, and the frame's write with
either answer. -/
theorem sendCommandWakesThenWritesTheFrame : Obligations.SendCommandWakesThenWritesTheFrame := by
  unfold Obligations.SendCommandWakesThenWritesTheFrame
  refine ⟨fun op p1 p2 payload s hrun hlong => ?_, fun op p1 p2 payload s hrun hc hl =>
    ⟨rfl, fun hout => ?_, fun hout hlarge => ?_, fun hout hfit hnever => ?_, fun k hout hfit hk => ?_⟩⟩
  · exact exec_next_iff.mpr ⟨hrun, .inl ⟨hlong, rfl⟩⟩
  · exact exec_next_iff.mpr ⟨hrun, .inr (.inl ⟨hl, hout, rfl⟩)⟩
  · rw [exec_sendCommand_of_busFree ⟨hrun, hout⟩ hl, sendCommand_of_too_large hlarge]
    rfl
  · rw [exec_sendCommand_of_busFree ⟨hrun, hout⟩ hl, sendCommand_of_neverWakes hc hfit hnever]
    rfl
  · rw [exec_sendCommand_of_busFree ⟨hrun, hout⟩ hl, sendCommand_of_wakesAt hc hfit hk]
    rcases transmit_cases (buildFrame s.config op p1 p2 payload) (afterHandshake k .awake s) with
      ⟨hw, h⟩ | ⟨hw, h⟩ <;>
    simp only [h, hw]

end Sys2Proof.Machine

/-! PROOF. CHECK_RESPONSE (rules R180, R181): the verdict on every input, and the request that returns it. -/

namespace Sys2Proof.Machine

/-- A non-empty input whose count is below 4, above the bound or unlike the length has not the shape of a frame. -/
theorem frameCheck_of_bad_count {maxc count : Byte} {rest : List Byte}
    (hbad : count.toNat < 4 ∨ count.toNat > maxc.toNat ∨ rest.length + 1 ≠ count.toNat) :
    frameCheck maxc (count :: rest) = ⟨.malformedResponse, []⟩ := by
  rcases frameCheck_malformed_or_shape maxc (count :: rest) with h | ⟨count', data, crc, hshape⟩
  · exact h
  · obtain ⟨hr, hcrc, hdata, hlen, hmax⟩ := hshape
    obtain ⟨rfl, rfl⟩ : count = count' ∧ rest = data ++ crc := by simpa using hr
    rw [List.length_append] at hbad
    omega

/-- Two bytes are the ones of a 16-bit value exactly when, low byte first, they make up that value (rule R43). -/
theorem le16_eq_iff (v : Half) (lo hi : Byte) : le16 v = [lo, hi] ↔ fromLe16 lo hi = v := by
  rw [← le16_fromLe16 lo hi]
  exact ⟨fun h => (le16_injective h).symm, fun h => congrArg le16 h.symm⟩

/-- Settles O19: an input is empty, has a bad count, or has the shape of a frame, whose CRC then decides. -/
theorem frameCheckVerdicts : Obligations.FrameCheckVerdicts := by
  unfold Obligations.FrameCheckVerdicts
  refine ⟨fun maxc => rfl, fun maxc count rest => frameCheck_of_bad_count,
    fun maxc count lo hi data hmin hmax hlen => ?_⟩
  have hshape : FrameShape maxc (count :: data ++ [lo, hi]) count data [lo, hi] :=
    ⟨rfl, rfl, by omega, hlen, hmax⟩
  rw [frameCheck_of_shape hshape]
  exact if_congr (le16_eq_iff _ lo hi) rfl rfl

/-- Settles O22: the encoding by definition; the check in range and the fault out of it by what `Effect` says. -/
theorem checkResponseEndsTheCommand : Obligations.CheckResponseEndsTheCommand := by
  unfold Obligations.CheckResponseEndsTheCommand
  refine fun maxc bytes s hrun => ⟨fun hl => ⟨rfl, ?_⟩, fun hlong => ?_⟩
  · exact exec_next_iff.mpr ⟨hrun, .inr ⟨hl, rfl⟩⟩
  · exact exec_next_iff.mpr ⟨hrun, .inl ⟨hlong, rfl⟩⟩

end Sys2Proof.Machine

/-! PROOF. The result codes (rules R200, R211): their numbers, and which of them each request returns. -/

namespace Sys2Proof.Machine

/-! ### The numbers -/

/-- No code has a number past 0x8 (rule R200). -/
theorem ResultCode.toBits_toNat_lt (c : ResultCode) : c.toBits.toNat < 0x9 := by cases c <;> decide

theorem ResultCode.ofBits_eq_none {v : BitVec 4} (h : 0x9 ≤ v.toNat) : ResultCode.ofBits v = none := by
  refine List.find?_eq_none.mpr fun c _ hc => ?_
  obtain rfl : c.toBits = v := eq_of_beq hc
  exact absurd c.toBits_toNat_lt (Nat.not_lt.mpr h)

/-! ### The codes a request returns -/

/-- The codes a request of each kind may return: the "raised by" column of rule R200's table. -/
def codesOf : Kind → List ResultCode
  | .wake => [.ok, .wakeFailure]
  | .idle => [.ok, .transportError]
  | .sendCommand => [.ok, .transportError, .wakeFailure, .frameTooLarge]
  | .crcClear | .crcByte | .crcCompute => [.ok]
  | .checkResponse => [.ok, .checksumMismatch, .malformedResponse]

/-- The state holds a result, with one of these codes. -/
def Returns (codes : List ResultCode) (t : State) : Prop := ∃ r, t.result = some r ∧ r.code ∈ codes

/-- The handshake succeeds or fails to wake, under any configuration. -/
theorem returns_wake (s : State) : Returns (codesOf .wake) (wake s) := by
  refine ⟨(wakeHandshake s).1, rfl, ?_⟩
  rcases tryWake_result s.config.wakeAttempts s with h | h <;> simp [wakeHandshake, h, codesOf]

theorem returns_idle (s : State) : Returns (codesOf .idle) (idle s) := by
  rcases idle_cases s with ⟨-, h⟩ | ⟨-, h⟩ <;> exact ⟨_, by rw [h], by simp [codesOf]⟩

/-- SEND_COMMAND ends at the size check, at the handshake, or with the answer to its frame's write. -/
theorem returns_sendCommand (op p1 : Byte) (p2 : Half) (payload : List Byte) (s : State) :
    Returns (codesOf .sendCommand) (sendCommand op p1 p2 payload s) := by
  simp only [sendCommand]
  split
  · exact ⟨_, rfl, by simp [codesOf]⟩
  split
  · exact ⟨_, rfl, by simp [codesOf]⟩
  · rcases transmit_cases (buildFrame s.config op p1 p2 payload) (wakeHandshake s).2 with ⟨-, h⟩ | ⟨-, h⟩ <;>
    exact ⟨_, by rw [h], by simp [codesOf]⟩

theorem returns_setCrc {codes : List ResultCode} (hok : .ok ∈ codes) (v : Half) (s : State) :
    Returns codes (setCrc v s) :=
  ⟨_, rfl, hok⟩

/-- An input has not the shape of a frame, or it has and its CRC decides (rule R180). -/
theorem returns_checkResponse (maxc : Byte) (bytes : List Byte) (s : State) :
    Returns (codesOf .checkResponse) (checkResponse maxc bytes s) := by
  refine ⟨frameCheck maxc bytes, rfl, ?_⟩
  rcases frameCheck_malformed_or_shape maxc bytes with h | ⟨count, data, crc, hshape⟩
  · simp [h, codesOf]
  · rw [frameCheck_of_shape hshape]
    split <;> simp [codesOf]

/-- Done to its end, a request returns a result with a code of its kind. -/
theorem returns_work (i : Instr) (s : State) : Returns (codesOf i.kind) (work i s) := by
  cases i with
  | wake => exact returns_wake s
  | idle => exact returns_idle s
  | sendCommand op p1 p2 payload => exact returns_sendCommand op p1 p2 payload s
  | crcClear | crcByte | crcCompute => exact returns_setCrc (by simp [Instr.kind, codesOf]) _ s
  | checkResponse maxc bytes => exact returns_checkResponse maxc bytes s

/-- A request in a running block does its work or faults (rule R205). -/
theorem effect_eq_work_or_raiseFault {i : Instr} {s t : State} (h : Effect i s t) :
    t = work i s ∨ ∃ reason, t = raiseFault reason s := by
  obtain ⟨f, hf, hdecided⟩ := effect_decided_by_outstanding i s
  obtain rfl := (hdecided s t rfl).mp h
  exact hf.imp (congrFun · s) fun ⟨reason, hreason⟩ => ⟨reason, congrFun hreason s⟩

theorem effect_returns {i : Instr} {s t : State} (h : Effect i s t) (hfault : t.fault = none) :
    Returns (codesOf i.kind) t := by
  rcases effect_eq_work_or_raiseFault h with rfl | ⟨reason, rfl⟩
  · exact returns_work i s
  · simp at hfault

/-- Settles O37: the numbers by definition, the codes by what the work of each request returns. -/
theorem resultCodes : Obligations.ResultCodes := by
  unfold Obligations.ResultCodes
  refine ⟨⟨rfl, rfl, rfl, rfl, rfl, rfl, rfl, rfl, rfl⟩, fun v => ResultCode.ofBits_eq_none,
    fun i s t h hfault => ?_⟩
  obtain ⟨-, heff⟩ := exec_next_iff.mp h
  exact effect_returns heff hfault

end Sys2Proof.Machine

/-! PROOF. One command at a time (rule R235): which requests an outstanding command holds up, and which it does not. -/

namespace Sys2Proof.Machine

/-- A well-formed request that does not use the bus does its own work, `outstanding` or not (rule R235). -/
theorem effect_work_of_not_usesBus {i : Instr} (s : State) (hwf : i.wellFormed = true)
    (hbus : i.usesBus = false) : Effect i s (work i s) := by
  cases i with
  | wake | idle | sendCommand => simp [Instr.usesBus] at hbus
  | crcClear | crcByte => rfl
  | crcCompute | checkResponse => exact .inr ⟨by simpa [Instr.wellFormed] using hwf, rfl⟩

/-- The work of a request that does not use the bus raises no fault. -/
theorem work_fault_of_not_usesBus {i : Instr} (s : State) (hbus : i.usesBus = false) :
    (work i s).fault = s.fault := by
  cases i with
  | wake | idle | sendCommand => simp [Instr.usesBus] at hbus
  | crcClear | crcByte | crcCompute | checkResponse => rfl

/-- Settles O31: a bus request faults before its own work, any other request does its work and does not fault. -/
theorem oneCommandAtATime : Obligations.OneCommandAtATime := by
  unfold Obligations.OneCommandAtATime
  refine fun i s hrun ho hwf => ⟨fun hbus => ?_, fun hbus => ⟨work i s, ?_, ?_⟩⟩
  · exact exec_next_iff.mpr ⟨hrun, effect_raises_busy ho hwf hbus⟩
  · exact exec_next_iff.mpr ⟨hrun, effect_work_of_not_usesBus s hwf hbus⟩
  · exact (work_fault_of_not_usesBus s hbus).trans hrun

end Sys2Proof.Machine

/-! PROOF. The decoder's inverse (rules R60, R61): what it reads and from which bytes, and that bytes behind a request
do not change how it is read. -/

namespace Sys2Proof

/-- Settles O2: the tag gives the kind, whose operand bytes are read back whole. -/
theorem decodeOfEncode : Obligations.DecodeOfEncode := fun _ => decode_encode

/-- A sequence read by its length is within that length's range, and has that length (rule R62). -/
theorem takeBytes_toNat_eq_some {w : Nat} {v : BitVec w} {bytes p q : List Byte}
    (h : takeBytes v.toNat bytes = some (p, q)) :
    bytes = p ++ q ∧ BitVec.ofNat w p.length = v ∧ p.length < 2 ^ w := by
  obtain ⟨hbytes, hlen⟩ := takeBytes_eq_some h
  refine ⟨hbytes, ?_, ?_⟩
  · rw [hlen, BitVec.ofNat_toNat, BitVec.setWidth_eq]
  · rw [hlen]; exact v.isLt

/-- What a kind's operand bytes are read as is a well-formed request of that kind, and they are its operand bytes. -/
theorem decodeOperands_eq_some {k : Kind} {bytes rest : List Byte} {i : Instr}
    (h : decodeOperands k bytes = some (i, rest)) :
    i.kind = k ∧ i.wellFormed = true ∧ bytes = encodeOperands i ++ rest := by
  unfold decodeOperands at h
  split at h
  -- too few operand bytes
  case h_4 | h_7 | h_9 | h_11 => cases h
  -- no sequence among the operands
  case h_1 | h_2 | h_5 | h_6 => cases h; exact ⟨rfl, rfl, rfl⟩
  -- a sequence behind its length
  case h_3 | h_8 | h_10 =>
    obtain ⟨⟨p, q⟩, htake, heq⟩ := Option.map_eq_some_iff.mp h
    obtain ⟨hbytes, hcount, hlt⟩ := takeBytes_toNat_eq_some htake
    cases heq
    exact ⟨rfl, by simpa [Instr.wellFormed] using Nat.le_of_lt_succ hlt, by simp [encodeOperands, hcount, hbytes]⟩

/-- What is decoded is well formed, and decoded from its serialised form. -/
theorem encode_of_decode {bytes : List Byte} {i : Instr} (h : decode bytes = .ok i) :
    i.wellFormed = true ∧ encode i = bytes := by
  unfold decode at h
  split at h
  · cases h
  next tag operands =>
    split at h
    · cases h
    next k hk =>
      split at h
      · cases h
      next j hj =>
        cases h
        obtain ⟨rfl, hwf, rfl⟩ := decodeOperands_eq_some hj
        exact ⟨hwf, by simp [encode, kindOfTag_eq_some hk]⟩
      · cases h

/-- Settles O3: the tag is that of the kind, and the operand bytes are the request's own. -/
theorem encodeOfDecode : Obligations.EncodeOfDecode := fun _ _ => encode_of_decode

theorem takeBytes_append_right {n : Nat} {bytes p q : List Byte} (more : List Byte)
    (h : takeBytes n bytes = some (p, q)) : takeBytes n (bytes ++ more) = some (p, q ++ more) := by
  obtain ⟨rfl, rfl⟩ := takeBytes_eq_some h
  rw [List.append_assoc, takeBytes_append]

/-- The operand bytes of a kind say themselves where they end. -/
theorem decodeOperands_append {k : Kind} {bytes rest : List Byte} {i : Instr} (more : List Byte)
    (h : decodeOperands k bytes = some (i, rest)) :
    decodeOperands k (bytes ++ more) = some (i, rest ++ more) := by
  unfold decodeOperands at h
  split at h
  -- too few operand bytes
  case h_4 | h_7 | h_9 | h_11 => cases h
  -- no sequence among the operands
  case h_1 | h_2 | h_5 | h_6 => cases h; rfl
  -- a sequence behind its length
  case h_3 | h_8 | h_10 =>
    obtain ⟨⟨p, q⟩, htake, heq⟩ := Option.map_eq_some_iff.mp h
    cases heq
    simp [decodeOperands, takeBytes_append_right more htake]

/-- No serialised form begins another one: a request's bytes with more bytes behind them are no request's bytes. -/
theorem eq_nil_of_encode_eq_append {i j : Instr} {more : List Byte} (hi : i.wellFormed = true)
    (hj : j.wellFormed = true) (h : encode i = encode j ++ more) : more = [] := by
  obtain ⟨htag, hoperands⟩ : i.kind.tag = j.kind.tag ∧ encodeOperands i = encodeOperands j ++ more := by
    simpa [encode] using h
  have hkind : i.kind = j.kind := by simpa using congrArg kindOfTag htag
  have hread := decodeOperands_encodeOperands hi
  rw [hkind, hoperands, decodeOperands_append more (decodeOperands_encodeOperands hj)] at hread
  obtain ⟨-, hmore⟩ : j = i ∧ more = [] := by simpa using hread
  exact hmore

/-- A proper initial part of a serialised form does not decode. -/
theorem decode_take_encode_ne_ok {i : Instr} {n : Nat} (hi : i.wellFormed = true) (hn : n < (encode i).length)
    (j : Instr) : decode ((encode i).take n) ≠ .ok j := by
  intro h
  obtain ⟨hj, henc⟩ := encode_of_decode h
  have hsplit : encode i = encode j ++ (encode i).drop n := by rw [henc, List.take_append_drop]
  have hrest := eq_nil_of_encode_eq_append hi hj hsplit
  exact absurd (List.drop_eq_nil_iff.mp hrest) (Nat.not_le.mpr hn)

/-- A sequence whose tag stands for no kind does not decode. -/
theorem decode_ne_ok_of_reserved {tag : Byte} (h : tag ∉ allKinds.map Kind.tag) (operands : List Byte) (j : Instr) :
    decode (tag :: operands) ≠ .ok j := by
  intro hj
  obtain ⟨-, henc⟩ := encode_of_decode hj
  obtain ⟨rfl, -⟩ : j.kind.tag = tag ∧ encodeOperands j = operands := by simpa [encode] using henc
  exact h (List.mem_map_of_mem (by cases j.kind <;> simp [allKinds]))

/-- Settles O1: each sequence is the serialised form of its request. -/
theorem specBytesDecode : Obligations.SpecBytesDecode := by
  unfold Obligations.SpecBytesDecode
  exact ⟨decode_encode (i := .wake) rfl, decode_encode (i := .idle) rfl,
    decode_encode (i := .sendCommand 0x12 0x00 0x0005 [0x01, 0x02, 0x03, 0x04]) rfl,
    decode_encode (i := .crcClear) rfl, decode_encode (i := .crcByte 0x04) rfl,
    decode_encode (i := .crcCompute [0x07, 0x03, 0x1B, 0x00, 0x00, 0x00]) rfl,
    decode_encode (i := .checkResponse 0x04 [0x04, 0x00, 0x03, 0x40]) rfl⟩

end Sys2Proof

/-! PROOF. The textual form (rule R63) and the request port (rules R24, R28, R61, R202, R230): one step on each kind
of input. -/

namespace Sys2Proof.Machine

/-- Settles O6: what is assembled is the serialised form of the request the tokens parse to. -/
theorem assembledLineIsARequest : Obligations.AssembledLineIsARequest := by
  unfold Obligations.AssembledLineIsARequest
  intro line bytes h
  unfold assemble at h
  split at h
  next i hparse =>
    obtain ⟨hwf, rfl⟩ : i.wellFormed = true ∧ encode i = bytes := by simpa using h
    exact ⟨i, hparse, hwf, decode_encode hwf⟩
  next => cases h

theorem step_of_request {s : State} {bytes : List Byte} {rest : List Input} {i : Instr}
    (hin : s.inputs = .request bytes :: rest) (hdec : decode bytes = .ok i) :
    step s = exec i { s with inputs := rest } := by
  simp [step, takeInput, hin, hdec]

/-- A malformed sequence faults with F_RESERVED while the block runs (rules R61, R202). -/
theorem step_of_malformed {s : State} {bytes : List Byte} {rest : List Input} {e : DecodeError}
    (hin : s.inputs = .request bytes :: rest) (hdec : decode bytes = .error e) :
    step s = whenRunning s (.next (raiseFault .reserved { s with inputs := rest })) := by
  simp [step, takeInput, hin, hdec]

theorem step_of_reset {s : State} {rest : List Input} (hin : s.inputs = .reset :: rest) :
    step s = .next (resetBlock { s with inputs := rest }) := by
  simp [step, takeInput, hin]

/-- A block with nothing issued waits while it runs (log entry 3). -/
theorem step_of_nothing_issued {s : State} (hin : s.inputs = []) : step s = whenRunning s (.next s) := by
  simp [step, takeInput, hin]

/-- Settles O4: neither form decodes. -/
theorem reservedOrTruncatedRequestFaults : Obligations.ReservedOrTruncatedRequestFaults := by
  unfold Obligations.ReservedOrTruncatedRequestFaults
  intro s bytes rest hrun hin hbad
  have hnone (j : Instr) : decode bytes ≠ .ok j := by
    rcases hbad with ⟨tag, operands, rfl, htag⟩ | ⟨i, k, hwf, -, hk, rfl⟩
    · exact decode_ne_ok_of_reserved htag operands j
    · exact decode_take_encode_ne_ok hwf hk j
  cases hdec : decode bytes with
  | ok j => exact absurd hdec (hnone j)
  | error e => rw [step_of_malformed hin hdec, whenRunning_of_running _ hrun]; rfl

/-- Settles O7: the port hands over the decoded request, and a table word is one that decodes. -/
theorem stepRunsTheDecodedRequest : Obligations.StepRunsTheDecodedRequest := by
  unfold Obligations.StepRunsTheDecodedRequest
  refine ⟨fun s bytes rest i => step_of_request, fun s nbits w i h => ?_⟩
  have hdec : decode (tableBytes nbits w) = .ok i := by
    unfold decodeTableWord at h
    cases hd : decode (tableBytes nbits w) with
    | ok j => simpa [hd, Except.toOption] using h
    | error e => simp [hd, Except.toOption] at h
  exact step_of_request (s := s.withFetchWord nbits w) rfl hdec

/-- Settles O8: with nothing issued there is only the test for a fault. -/
theorem blockWithNothingIssuedWaits : Obligations.BlockWithNothingIssuedWaits := by
  unfold Obligations.BlockWithNothingIssuedWaits
  intro s hrun hin
  rw [step_of_nothing_issued hin, whenRunning_of_running _ hrun]

/-- Every request is tested for the fault first (rule R202). -/
theorem exec_of_stopped {s : State} {reason : FaultReason} (hstop : s.fault = some reason) (i : Instr) :
    exec i s = .fault (.stopped reason) := by
  cases i <;> exact whenRunning_stopped _ hstop

/-- Settles O9: nothing issued, a request that decodes, or one that does not. -/
theorem stoppedBlockHasNoStep : Obligations.StoppedBlockHasNoStep := by
  unfold Obligations.StoppedBlockHasNoStep
  refine fun s reason hstop => ⟨exec_of_stopped hstop, fun hhead => ?_⟩
  match hin : s.inputs with
  | [] => rw [step_of_nothing_issued hin, whenRunning_stopped _ hstop]
  | .reset :: rest => simp [hin] at hhead
  | .request bytes :: rest =>
    cases hdec : decode bytes with
    | ok i => exact (step_of_request hin hdec).trans (exec_of_stopped (s := { s with inputs := rest }) hstop i)
    | error e => rw [step_of_malformed hin hdec, whenRunning_stopped _ hstop]

/-- Settles O11: the start state by definition, the reset event by what its step leaves. -/
theorem resetLeavesSpecValues : Obligations.ResetLeavesSpecValues := by
  unfold Obligations.ResetLeavesSpecValues
  exact ⟨⟨rfl, rfl, rfl, rfl, rfl, rfl⟩,
    fun s rest hin => ⟨_, step_of_reset hin, rfl, rfl, rfl, rfl, rfl, rfl, rfl⟩⟩

end Sys2Proof.Machine

/-! PROOF. `parse_frame` (rule R156): a sequence of eight bytes or more is laid out as a frame in just one way, and
parses exactly when its count, marker and CRC are those of the frame built from its fields. -/

namespace Sys2Proof.Machine

/-- The bytes of a frame that carry the fields of a command, the same in both layouts (rules R64, R65). -/
def CommandFields.body (x : CommandFields) : List Byte := [x.op, x.p1] ++ le16 x.p2 ++ x.payload

/-- The two bytes before the body (rules R64, R65). -/
def frameHead (layout : FrameLayout) (count marker : Byte) : List Byte :=
  match layout with
  | .literal => [count, marker]
  | .device => [marker, count]

/-- What the CRC of a frame is computed over (rules R64, R65). -/
def crcInput (layout : FrameLayout) (count marker : Byte) (x : CommandFields) : List Byte :=
  match layout with
  | .literal => [count, marker] ++ x.body
  | .device => [count] ++ x.body

/-- A sequence laid out as a frame, its count, marker and CRC whatever they are. -/
def layOut (layout : FrameLayout) (count marker : Byte) (x : CommandFields) (crc : List Byte) : List Byte :=
  frameHead layout count marker ++ x.body ++ crc

/-- The framer lays the fields out with the count, the marker and the CRC of the layout (rule R150). -/
theorem buildFrame_eq_layOut (c : Config) (x : CommandFields) :
    buildFrame c x.op x.p1 x.p2 x.payload =
      layOut c.frameLayout (countByte x.payload) c.waCommand x
        (le16 (crc16 (crcInput c.frameLayout (countByte x.payload) c.waCommand x))) := by
  cases hlayout : c.frameLayout <;> simp [buildFrame, hlayout, layOut, frameHead, crcInput, CommandFields.body]

/-- The count byte is that of the payload in both layouts (rules R64, R65). -/
theorem buildFrame_count (c : Config) (op p1 : Byte) (p2 : Half) (payload : List Byte) :
    (buildFrame c op p1 p2 payload).getD (countOffset c.frameLayout) 0 = countByte payload := by
  cases hlayout : c.frameLayout <;> simp [buildFrame, countOffset, hlayout]

section LaidOut

variable (layout : FrameLayout) (count marker : Byte) (x : CommandFields) {crc : List Byte} (hcrc : crc.length = 2)

@[simp] theorem layOut_count : (layOut layout count marker x crc).getD (countOffset layout) 0#8 = count := by
  cases layout <;> rfl

@[simp] theorem layOut_marker : (layOut layout count marker x crc).getD (markerOffset layout) 0#8 = marker := by
  cases layout <;> rfl

@[simp] theorem layOut_op : (layOut layout count marker x crc).getD 2 0#8 = x.op := by cases layout <;> rfl

@[simp] theorem layOut_p1 : (layOut layout count marker x crc).getD 3 0#8 = x.p1 := by cases layout <;> rfl

@[simp] theorem layOut_p2 :
    fromLe16 ((layOut layout count marker x crc).getD 4 0#8) ((layOut layout count marker x crc).getD 5 0#8) =
      x.p2 := by
  cases layout <;> exact fromLe16_bytes x.p2

include hcrc

theorem layOut_length : (layOut layout count marker x crc).length = 8 + x.payload.length := by
  cases layout <;> simp [layOut, frameHead, CommandFields.body, hcrc] <;> omega

/-- The last two bytes cut off leave the head and the body. -/
theorem layOut_take :
    (layOut layout count marker x crc).take ((layOut layout count marker x crc).length - 2) =
      frameHead layout count marker ++ x.body := by
  rw [layOut, List.length_append, hcrc, Nat.add_sub_cancel, List.take_left]

theorem layOut_drop :
    (layOut layout count marker x crc).drop ((layOut layout count marker x crc).length - 2) = crc := by
  rw [layOut, List.length_append, hcrc, Nat.add_sub_cancel, List.drop_left]

theorem layOut_payload :
    ((layOut layout count marker x crc).take ((layOut layout count marker x crc).length - 2)).drop 6 = x.payload := by
  rw [layOut_take layout count marker x hcrc]
  cases layout <;> rfl

theorem crcCovered_layOut :
    crcCovered layout (layOut layout count marker x crc) = crcInput layout count marker x := by
  have htake := layOut_take layout count marker x hcrc
  cases layout <;> simp only [crcCovered, htake] <;> rfl

end LaidOut

/-- Of the sequences laid out as frames, those with the right count, marker and CRC parse, to their fields. -/
theorem parseFrame_layOut (c : Config) (count marker : Byte) (x : CommandFields) {crc : List Byte}
    (hcrc : crc.length = 2) :
    parseFrame c (layOut c.frameLayout count marker x crc) =
      if count.toNat = 7 + x.payload.length ∧ marker = c.waCommand ∧
          le16 (crc16 (crcInput c.frameLayout count marker x)) = crc
      then some x else none := by
  have hlen := layOut_length c.frameLayout count marker x hcrc
  have hlong : ¬(layOut c.frameLayout count marker x crc).length < 8 := by omega
  have hcount : (layOut c.frameLayout count marker x crc).length - 1 = 7 + x.payload.length := by omega
  simp only [parseFrame, if_neg hlong, layOut_count, hcount, layOut_marker, crcCovered_layOut _ _ _ _ hcrc,
    layOut_drop _ _ _ _ hcrc, layOut_op, layOut_p1, layOut_p2, layOut_payload _ _ _ _ hcrc, ite_not,
    ite_and]

/-- Eight bytes or more can be laid out as a frame. -/
theorem exists_eq_layOut (layout : FrameLayout) {f : List Byte} (hf : 8 ≤ f.length) :
    ∃ count marker x crc, crc.length = 2 ∧ f = layOut layout count marker x crc := by
  match f with
  | b0 :: b1 :: op :: p1 :: lo :: hi :: rest =>
    have hrest : 2 ≤ rest.length := by simpa using hf
    obtain ⟨payload, crc, rfl, hcrc⟩ : ∃ payload crc, rest = payload ++ crc ∧ crc.length = 2 :=
      ⟨rest.take (rest.length - 2), rest.drop (rest.length - 2), by simp, by simp; omega⟩
    have hlayOut (count marker : Byte) : layOut layout count marker ⟨op, p1, fromLe16 lo hi, payload⟩ crc =
        frameHead layout count marker ++ op :: p1 :: lo :: hi :: (payload ++ crc) := by
      simp [layOut, CommandFields.body]
    cases layout with
    | literal =>
      exact ⟨b0, b1, ⟨op, p1, fromLe16 lo hi, payload⟩, crc, hcrc, by simp [hlayOut, frameHead]⟩
    | device =>
      exact ⟨b1, b0, ⟨op, p1, fromLe16 lo hi, payload⟩, crc, hcrc, by simp [hlayOut, frameHead]⟩

/-- Settles O27: the framer lays out the fields with the count, marker and CRC that `parse_frame` asks for. -/
theorem parseOfBuild : Obligations.ParseOfBuild := by
  unfold Obligations.ParseOfBuild
  intro c op p1 p2 payload hfit
  have hcount := countByte_toNat hfit
  refine ⟨?_, ?_⟩
  · rw [buildFrame_eq_layOut c ⟨op, p1, p2, payload⟩, parseFrame_layOut _ _ _ _ (le16_length _)]
    exact if_pos ⟨hcount, rfl, rfl⟩
  · rw [buildFrame_count, hcount, buildFrame_length]
    omega

/-- Settles O28: what parses is laid out in the one way the framer lays out its fields. -/
theorem buildOfParse : Obligations.BuildOfParse := by
  unfold Obligations.BuildOfParse
  intro c f x h
  have hlong : 8 ≤ f.length := by
    by_contra hshort
    simp [parseFrame, Nat.not_le.mp hshort] at h
  obtain ⟨count, marker, y, crc, hcrc, rfl⟩ := exists_eq_layOut c.frameLayout hlong
  rw [parseFrame_layOut c count marker y hcrc] at h
  obtain ⟨⟨hcount, rfl, rfl⟩, hxy⟩ := Option.ite_none_right_eq_some.mp h
  obtain rfl := Option.some.inj hxy
  have hmax := count.isLt
  have hbyte : countByte y.payload = count := by
    rw [countByte, ← hcount, BitVec.ofNat_toNat, BitVec.setWidth_eq]
  exact ⟨by rw [buildFrame_eq_layOut, hbyte], by omega⟩

end Sys2Proof.Machine

/-! PROOF. What holds of every request (rules R27, R201, R202, R205): which outcome it has, what a fault leaves, and
that errors carry no data. -/

namespace Sys2Proof.Machine

@[simp] theorem wakeHandshake_fault (s : State) : (wakeHandshake s).2.fault = s.fault := by
  obtain ⟨tr, e, b, h⟩ := tryWake_frame s.config.wakeAttempts s
  simp [wakeHandshake, h]

@[simp] theorem transmit_fault (frame : List Byte) (s : State) : (transmit frame s).fault = s.fault := by
  rcases transmit_cases frame s with ⟨-, h⟩ | ⟨-, h⟩ <;> rw [h]

/-- SEND_COMMAND ends at the size check, at the handshake or with its frame's write, under any configuration
(rule R152). -/
theorem sendCommand_ends (op p1 : Byte) (p2 : Half) (payload : List Byte) (s : State) :
    sendCommand op p1 p2 payload s = returnResult ⟨.frameTooLarge, []⟩ s ∨
    sendCommand op p1 p2 payload s = returnResult ⟨.wakeFailure, []⟩ (wakeHandshake s).2 ∨
    sendCommand op p1 p2 payload s = transmit (buildFrame s.config op p1 p2 payload) (wakeHandshake s).2 := by
  unfold sendCommand
  split
  · exact .inl rfl
  · by_cases hfail : (wakeHandshake s).1.code = .wakeFailure
    · exact .inr (.inl (if_pos hfail))
    · exact .inr (.inr (if_neg hfail))

/-- No request's own work raises a fault: faults are raised before it (rule R205). -/
@[simp] theorem work_fault (i : Instr) (s : State) : (work i s).fault = s.fault := by
  cases i with
  | wake => exact wakeHandshake_fault s
  | idle => rcases idle_cases s with ⟨-, h⟩ | ⟨-, h⟩ <;> simp [work, h]
  | sendCommand op p1 p2 payload => rcases sendCommand_ends op p1 p2 payload s with h | h | h <;> simp [work, h]
  | crcClear | crcByte | crcCompute | checkResponse => rfl

/-- A well-formed request does its own work unless it is a bus request made while a command is outstanding
(rule R205). -/
theorem effect_work {i : Instr} {s : State} (hwf : i.wellFormed = true)
    (hfree : ¬(i.usesBus = true ∧ s.outstanding = true)) : Effect i s (work i s) := by
  by_cases hbus : i.usesBus = true
  · have hout : s.outstanding = false := by simpa [hbus] using hfree
    cases i with
    | wake | idle => exact .inr ⟨hout, rfl⟩
    | sendCommand => exact .inr (.inr ⟨by simpa [Instr.wellFormed] using hwf, hout, rfl⟩)
    | crcClear | crcByte | crcCompute | checkResponse => simp [Instr.usesBus] at hbus
  · exact effect_work_of_not_usesBus s hwf (eq_false_of_ne_true hbus)

/-- Everything a request can come to in a running block, in the order of rule R205. -/
theorem exec_of_running (i : Instr) {s : State} (hrun : Running s) :
    (i.wellFormed = false ∧ exec i s = .next (raiseFault .reserved s)) ∨
    (i.wellFormed = true ∧ (i.usesBus = true ∧ s.outstanding = true) ∧ exec i s = .next (raiseFault .busy s)) ∨
    (i.wellFormed = true ∧ ¬(i.usesBus = true ∧ s.outstanding = true) ∧ exec i s = .next (work i s)) := by
  by_cases hwf : i.wellFormed = true
  · by_cases hbusy : i.usesBus = true ∧ s.outstanding = true
    · exact .inr (.inl ⟨hwf, hbusy, exec_next_iff.mpr ⟨hrun, effect_raises_busy hbusy.2 hwf hbusy.1⟩⟩)
    · exact .inr (.inr ⟨hwf, hbusy, exec_next_iff.mpr ⟨hrun, effect_work hwf hbusy⟩⟩)
  · have hill := eq_false_of_ne_true hwf
    exact .inl ⟨hill, exec_next_iff.mpr ⟨hrun, effect_raises_reserved s hill⟩⟩

/-- Settles O10: the two faults in their order, then the request's own work, which raises none. -/
theorem runningBlockServesEveryRequest : Obligations.RunningBlockServesEveryRequest := by
  unfold Obligations.RunningBlockServesEveryRequest
  intro i s hrun
  have hnone : s.fault = none := hrun
  rcases exec_of_running i hrun with ⟨hill, h⟩ | ⟨hwf, hbusy, h⟩ | ⟨hwf, hfree, h⟩
  · exact ⟨_, h, by simp [hill], by simp [hill]⟩
  · exact ⟨_, h, by simp [hwf], by simp [hwf, hbusy]⟩
  · exact ⟨_, h, by simp [hnone, hwf], by simpa [hnone, hwf] using hfree⟩

/-- A request that has a next state was made in a running block, and faulted there or did its own work. -/
theorem exec_next_cases {i : Instr} {s t : State} (h : exec i s = .next t) :
    s.fault = none ∧
      ((∃ reason, t = raiseFault reason s ∧ (reason = .busy → s.outstanding = true)) ∨
        (t = work i s ∧ ¬(i.usesBus = true ∧ s.outstanding = true))) := by
  have hrun := (exec_next_iff.mp h).1
  refine ⟨hrun, ?_⟩
  rcases exec_of_running i hrun with ⟨-, h'⟩ | ⟨-, hbusy, h'⟩ | ⟨-, hfree, h'⟩ <;> cases h.symm.trans h'
  · exact .inl ⟨.reserved, rfl, by simp⟩
  · exact .inl ⟨.busy, rfl, fun _ => hbusy.2⟩
  · exact .inr ⟨rfl, hfree⟩

/-- Settles O39: only `raiseFault` leaves a faulted state. -/
theorem faultChangesNothingElse : Obligations.FaultChangesNothingElse := by
  unfold Obligations.FaultChangesNothingElse
  intro i s t h hfault
  obtain ⟨hrun, ⟨reason, rfl, -⟩ | ⟨rfl, -⟩⟩ := exec_next_cases h
  · rfl
  · exact absurd ((work_fault i s).trans hrun) hfault

/-- The codes of rule R200's table are all the block's own (rule R211). -/
theorem ofBlock_of_mem_codesOf (k : Kind) : ∀ code ∈ codesOf k, code.ofBlock = true := by
  cases k <;> decide

/-- A check that does not answer OK gives no data (rule R180). -/
theorem frameCheck_data_of_code_ne_ok {maxc : Byte} {r : List Byte} (h : (frameCheck maxc r).code ≠ .ok) :
    (frameCheck maxc r).data = [] := by
  rcases frameCheck_malformed_or_shape maxc r with hbad | ⟨count, data, crc, hshape⟩
  · rw [hbad]
  · rw [frameCheck_of_shape hshape] at h ⊢
    split at h
    · exact absurd rfl h
    next hcrc => rw [if_neg hcrc]

/-- What the work of a request returns carries no data with an error (rule R201). -/
theorem work_data_of_code_ne_ok {i : Instr} {s : State} {r : Result} (hr : (work i s).result = some r)
    (hcode : r.code ≠ .ok) : r.data = [] := by
  cases i with
  | wake =>
    obtain rfl : (wakeHandshake s).1 = r := by simpa [work, wake] using hr
    rcases tryWake_result s.config.wakeAttempts s with h | h
    · exact absurd h hcode
    · rw [wakeHandshake, h]
  | idle =>
    rcases idle_cases s with ⟨-, h⟩ | ⟨-, h⟩ <;> simp only [work, h] at hr <;> cases hr <;> rfl
  | sendCommand op p1 p2 payload =>
    rcases sendCommand_ends op p1 p2 payload s with h | h | h <;> simp only [work, h] at hr
    · cases hr; rfl
    · cases hr; rfl
    · rcases transmit_cases (buildFrame s.config op p1 p2 payload) (wakeHandshake s).2 with
        ⟨-, hw⟩ | ⟨-, hw⟩ <;> rw [hw] at hr <;> cases hr
      · exact absurd rfl hcode
      · rfl
  | crcClear | crcByte | crcCompute => cases hr; exact absurd rfl hcode
  | checkResponse maxc bytes => cases hr; exact frameCheck_data_of_code_ne_ok hcode

/-- What the work of a request returns is a good result. -/
theorem work_goodResult {i : Instr} {s : State} {r : Result} (hr : (work i s).result = some r) : GoodResult r := by
  obtain ⟨r', hr', hcode⟩ := returns_work i s
  obtain rfl : r' = r := by simpa [hr'] using hr
  exact ⟨ofBlock_of_mem_codesOf _ _ hcode, work_data_of_code_ne_ok hr⟩

/-- Settles O38: a request's own work returns good results and raises no fault; a fault returns nothing. -/
theorem errorsCarryNoData : Obligations.ErrorsCarryNoData := by
  unfold Obligations.ErrorsCarryNoData
  intro i s t h
  obtain ⟨hrun, ⟨reason, rfl, -⟩ | ⟨rfl, -⟩⟩ := exec_next_cases h
  · exact ⟨by simp, fun _ => rfl⟩
  · exact ⟨fun r => work_data_of_code_ne_ok, fun hfault => absurd ((work_fault i s).trans hrun) hfault⟩

/-- The configuration is no part of the change a request makes (rule R27). -/
@[simp] theorem work_config (i : Instr) (s : State) : (work i s).config = s.config := by
  obtain ⟨d, -, hd⟩ := makesOneChange_work i s
  rw [hd s (.refl i s)]
  rfl

theorem exec_config {i : Instr} {s t : State} (h : exec i s = .next t) : t.config = s.config := by
  obtain ⟨d, rfl, -⟩ := exec_makes_one_change h
  rfl

/-- Settles O40: a reset, waiting, a malformed request, or a request run. -/
theorem configurationIsReadOnly : Obligations.ConfigurationIsReadOnly := by
  unfold Obligations.ConfigurationIsReadOnly
  intro s t h
  rcases step_next_cases h with
    ⟨rest, -, rfl⟩ | ⟨-, -, rfl⟩ | ⟨-, rest, -, -, -, -, rfl⟩ | ⟨-, rest, i, -, -, hexec⟩
  · rfl
  · rfl
  · rfl
  · exact (exec_config hexec :)

end Sys2Proof.Machine

/-! PROOF. The invariant (rules R22, R23, R129, R152, R235): the bus part of it is kept by every request's own work,
and from the trace it describes no command stands without a wake before it. -/

namespace Sys2Proof.Machine

theorem one_le_wakeAttempts {c : Config} (hc : configValid c) : 1 ≤ c.wakeAttempts := by
  obtain ⟨-, hpos, -⟩ := hc
  exact hpos

/-! ### Bus traces and the belief they lead to -/

/-- The events of the attempts before, then those of the last. -/
theorem handshakeEvents_succ_last (c : Config) (e : Environment) (k : Nat) :
    handshakeEvents c e (k + 1) = handshakeEvents c e k ++ attemptEvents c (readAt 4 k e) := by
  simp [handshakeEvents, List.range_succ]

theorem BusTrace.handshake {c : Config} {tr : List Event} (h : BusTrace c tr) (e : Environment) (k : Nat) :
    BusTrace c (tr ++ handshakeEvents c e k) := by
  induction k with
  | zero => simpa [handshakeEvents_zero] using h
  | succ k ih =>
    rw [handshakeEvents_succ_last, ← List.append_assoc]
    exact .attempt _ _ ih (shortAnswer_readAt k e)

/-- After a wake attempt the chip is awake if it answered WAKE_ACK, and else asleep (rule R129). -/
theorem beliefOf_attempt (c : Config) (tr : List Event) (answer : ReadAnswer) :
    beliefOf c (tr ++ attemptEvents c answer) = if answer = .data c.wakeAck then .awake else .sleep := by
  simp [beliefOf, attemptEvents, beliefStep]

theorem beliefOf_handshake (c : Config) (tr : List Event) (e : Environment) (k : Nat) :
    beliefOf c (tr ++ handshakeEvents c e (k + 1)) =
      if readAt 4 k e = .data c.wakeAck then .awake else .sleep := by
  rw [handshakeEvents_succ_last, ← List.append_assoc, beliefOf_attempt]

/-- A written frame says nothing of the chip unless it is the idle frame, written with success (rule R129). -/
theorem beliefOf_write (c : Config) (tr : List Event) (bytes : List Byte) (outcome : WriteAnswer) :
    beliefOf c (tr ++ [.write bytes outcome]) =
      if bytes = [c.waIdle] ∧ outcome = .ok then .idle else beliefOf c tr := by
  simp [beliefOf, beliefStep]

/-- No command frame is the idle frame: it has eight bytes or more (rules R64, R65, R69). -/
theorem buildFrame_ne_idle (c : Config) (op p1 : Byte) (p2 : Half) (payload : List Byte) :
    buildFrame c op p1 p2 payload ≠ [c.waIdle] := by
  intro h
  have hlen := buildFrame_length c op p1 p2 payload
  rw [h, List.length_singleton] at hlen
  omega

/-! ### The bus part of the invariant -/

/-- The clauses of the invariant on the trace, `belief` and `outstanding`. -/
structure BusInv (s : State) : Prop where
  trace       : BusTrace s.config s.trace
  belief      : s.belief = beliefOf s.config s.trace
  outstanding : s.outstanding = true → EndsInCommand s.config s.trace

theorem BlockInv.bus {s : State} (h : BlockInv s) : BusInv s := ⟨h.trace, h.belief, h.outstanding⟩

/-- The bus part speaks of the configuration, the trace, `belief` and `outstanding` only. -/
theorem BusInv.congr {s t : State} (h : BusInv s) (hconfig : t.config = s.config) (htrace : t.trace = s.trace)
    (hbelief : t.belief = s.belief) (hout : t.outstanding = s.outstanding) : BusInv t := by
  obtain ⟨h1, h2, h3⟩ := h
  exact ⟨by rwa [hconfig, htrace], by rwa [hconfig, htrace, hbelief], by rwa [hconfig, htrace, hout]⟩

theorem busInv_of_wakesAt {s : State} {k : Nat} (h : BusInv s) (hfree : s.outstanding = false) (hk : WakesAt s k) :
    BusInv (afterHandshake k .awake s) := by
  obtain ⟨hpos, -, hack, -⟩ := hk
  obtain ⟨k, rfl⟩ := Nat.exists_eq_add_of_le' hpos
  refine ⟨h.trace.handshake s.env (k + 1), ?_, by simp [hfree]⟩
  simp only [afterHandshake_belief, afterHandshake_config, afterHandshake_trace, beliefOf_handshake]
  exact (if_pos hack).symm

theorem busInv_of_neverWakes {s : State} (h : BusInv s) (hc : configValid s.config) (hfree : s.outstanding = false)
    (hnever : NeverWakes s) : BusInv (afterHandshake s.config.wakeAttempts .sleep s) := by
  obtain ⟨k, hk⟩ := Nat.exists_eq_add_of_le' (one_le_wakeAttempts hc)
  have hfail : readAt 4 k s.env ≠ .data s.config.wakeAck := hnever k (by omega)
  refine ⟨h.trace.handshake s.env _, ?_, by simp [hfree]⟩
  simp only [afterHandshake_belief, afterHandshake_config, afterHandshake_trace, hk, beliefOf_handshake]
  exact (if_neg hfail).symm

theorem busInv_wake {s : State} (h : BusInv s) (hc : configValid s.config) (hfree : s.outstanding = false) :
    BusInv (wake s) := by
  rcases wakeHandshake_cases s hc with ⟨k, hk, heq⟩ | ⟨hnever, heq⟩ <;> rw [wake_of_wakeHandshake heq]
  · exact (busInv_of_wakesAt h hfree hk).congr rfl rfl rfl rfl
  · exact (busInv_of_neverWakes h hc hfree hnever).congr rfl rfl rfl rfl

theorem busInv_idle {s : State} (h : BusInv s) (hfree : s.outstanding = false) : BusInv (idle s) := by
  rcases idle_cases s with ⟨-, heq⟩ | ⟨-, heq⟩ <;> rw [heq]
  · exact ⟨.idleFrame _ _ h.trace, by simp [beliefOf_write], by simp [hfree]⟩
  · exact ⟨.idleFrame _ _ h.trace, by simp [beliefOf_write, h.belief], by simp [hfree]⟩

/-- A frame within its bound, written right after a handshake that woke the chip (rule R152). -/
theorem busInv_transmit {s : State} {op : Byte} {payload : List Byte} {k : Nat} (h : BusInv s)
    (hfree : s.outstanding = false) (hfit : payload.length ≤ maxPayloadOf s.config op) (hk : WakesAt s k) (p1 : Byte)
    (p2 : Half) : BusInv (transmit (buildFrame s.config op p1 p2 payload) (afterHandshake k .awake s)) := by
  have hawake := (busInv_of_wakesAt h hfree hk).belief
  obtain ⟨hpos, -, hack, -⟩ := hk
  obtain ⟨k, rfl⟩ := Nat.exists_eq_add_of_le' hpos
  have htrace (outcome : WriteAnswer) : BusTrace s.config (s.trace ++ handshakeEvents s.config s.env (k + 1) ++
      [.write (buildFrame s.config op p1 p2 payload) outcome]) := by
    have hlast : readAt 4 k s.env = .data s.config.wakeAck := hack
    rw [handshakeEvents_succ_last, hlast, ← List.append_assoc]
    exact .commandFrame _ op p1 p2 payload outcome (h.trace.handshake s.env k) hfit
  have hbelief (outcome : WriteAnswer) : Belief.awake = beliefOf s.config
      (s.trace ++ handshakeEvents s.config s.env (k + 1) ++
        [.write (buildFrame s.config op p1 p2 payload) outcome]) := by
    rw [beliefOf_write, if_neg fun hidle => buildFrame_ne_idle _ _ _ _ _ hidle.1]
    exact hawake
  rcases transmit_cases (buildFrame s.config op p1 p2 payload) (afterHandshake (k + 1) .awake s) with
    ⟨-, heq⟩ | ⟨-, heq⟩ <;> rw [heq]
  · exact ⟨htrace .ok, hbelief .ok, fun _ => ⟨_, op, p1, p2, payload, rfl⟩⟩
  · exact ⟨htrace .err, hbelief .err, by simp [hfree]⟩

theorem busInv_sendCommand {s : State} (h : BusInv s) (hc : configValid s.config) (hfree : s.outstanding = false)
    (op p1 : Byte) (p2 : Half) (payload : List Byte) : BusInv (sendCommand op p1 p2 payload s) := by
  by_cases hfit : payload.length ≤ maxPayloadOf s.config op
  · rcases wakesAt_or_neverWakes s hc with ⟨k, hk⟩ | hnever
    · rw [sendCommand_of_wakesAt hc hfit hk]
      exact busInv_transmit h hfree hfit hk p1 p2
    · rw [sendCommand_of_neverWakes hc hfit hnever]
      exact (busInv_of_neverWakes h hc hfree hnever).congr rfl rfl rfl rfl
  · rw [sendCommand_of_too_large (Nat.not_le.mp hfit)]
    exact h.congr rfl rfl rfl rfl

/-- The work of a request that `outstanding` does not hold up keeps the bus part of the invariant. -/
theorem busInv_work {i : Instr} {s : State} (h : BusInv s) (hc : configValid s.config)
    (hfree : ¬(i.usesBus = true ∧ s.outstanding = true)) : BusInv (work i s) := by
  have hout (hbus : i.usesBus = true) : s.outstanding = false := by simpa [hbus] using hfree
  cases i with
  | wake => exact busInv_wake h hc (hout rfl)
  | idle => exact busInv_idle h (hout rfl)
  | sendCommand op p1 p2 payload => exact busInv_sendCommand h hc (hout rfl) op p1 p2 payload
  | crcClear | crcByte | crcCompute => exact h.congr rfl rfl rfl rfl
  | checkResponse => exact ⟨h.trace, h.belief, by simp [work]⟩

/-! ### The whole invariant -/

/-- A reset leaves an empty trace, from which everything starts (rule R230). -/
theorem blockInv_resetBlock {s : State} (hc : configValid s.config) : BlockInv (resetBlock s) :=
  ⟨hc, .empty, rfl, by simp, by simp, by simp, by simp⟩

/-- Settles O43: the reset state is a reset block under the spec configuration. -/
theorem resetMeetsTheInvariant : Obligations.ResetMeetsTheInvariant := by
  unfold Obligations.ResetMeetsTheInvariant
  obtain ⟨-, -, -, hack⟩ := wakeAckIsAValidFrame
  have hc : configValid State.reset.config :=
    ⟨by decide, by decide, by decide, by decide, rfl, congrArg Result.code hack⟩
  exact ⟨blockInv_resetBlock (s := State.reset) hc, rfl, rfl, rfl⟩

/-- A fault keeps the invariant, if F_BUSY is raised only while a command is outstanding (rule R24). -/
theorem blockInv_raiseFault {s : State} {reason : FaultReason} (h : BlockInv s)
    (hbusy : reason = .busy → s.outstanding = true) : BlockInv (raiseFault reason s) :=
  ⟨h.config, h.trace, h.belief, h.outstanding, by simpa using hbusy, by simp, by simp⟩

/-- Inputs are no matter of the invariant. -/
theorem BlockInv.setInputs {s : State} (h : BlockInv s) (inputs : List Input) :
    BlockInv { s with inputs := inputs } :=
  ⟨h.config, h.trace, h.belief, h.outstanding, h.busy, h.noResult, h.result⟩

theorem blockInv_work {i : Instr} {s : State} (h : BlockInv s) (hrun : s.fault = none)
    (hfree : ¬(i.usesBus = true ∧ s.outstanding = true)) : BlockInv (work i s) := by
  obtain ⟨htrace, hbelief, hout⟩ := busInv_work h.bus h.config hfree
  exact ⟨(work_config i s).symm ▸ h.config, htrace, hbelief, hout, by simp [hrun], by simp [hrun],
    fun r => work_goodResult⟩

theorem exec_blockInv {i : Instr} {s t : State} (h : BlockInv s) (hexec : exec i s = .next t) : BlockInv t := by
  obtain ⟨hrun, ⟨reason, rfl, hbusy⟩ | ⟨rfl, hfree⟩⟩ := exec_next_cases hexec
  · exact blockInv_raiseFault h hbusy
  · exact blockInv_work h hrun hfree

/-- Settles O44: a reset, waiting, a malformed request, or a request run. -/
theorem everyStepKeepsTheInvariant : Obligations.EveryStepKeepsTheInvariant := by
  unfold Obligations.EveryStepKeepsTheInvariant
  intro s t h hstep
  rcases step_next_cases hstep with
    ⟨rest, -, rfl⟩ | ⟨-, -, rfl⟩ | ⟨-, rest, -, -, -, -, rfl⟩ | ⟨-, rest, i, -, -, hexec⟩
  · exact blockInv_resetBlock (h.setInputs rest).config
  · exact h
  · exact blockInv_raiseFault (h.setInputs rest) (by simp)
  · exact exec_blockInv (h.setInputs rest) hexec

/-! ### Writes in a bus trace -/

/-- What a bus trace may have written, and what stands before it: the idle frame, or a command frame within its bound
right after a wake attempt that read WAKE_ACK (rules R69, R152). -/
def WriteAllowed (c : Config) (before : List Event) (bytes : List Byte) : Prop :=
  bytes = [c.waIdle] ∨
  (∃ op p1 p2 payload earlier, bytes = buildFrame c op p1 p2 payload ∧ payload.length ≤ maxPayloadOf c op ∧
    before = earlier ++ attemptEvents c (.data c.wakeAck))

/-- An event of a trace that has grown stands in the old part or in the new one. -/
theorem event_in_old_or_new {tr new before after : List Event} {e : Event}
    (h : tr ++ new = before ++ [e] ++ after) :
    (∃ after', tr = before ++ [e] ++ after') ∨ (∃ mid, before = tr ++ mid ∧ new = mid ++ [e] ++ after) := by
  rw [List.append_assoc] at h
  rcases List.append_eq_append_iff.mp h with ⟨mid, hbefore, hnew⟩ | ⟨tail, htr, htail⟩
  · exact .inr ⟨mid, hbefore, by simpa using hnew⟩
  · cases tail with
    | nil => exact .inr ⟨[], by simpa using htr.symm, by simpa using htail.symm⟩
    | cons e' after' =>
      obtain ⟨rfl, -⟩ : e = e' ∧ after = after' ++ new := by simpa using htail
      exact .inl ⟨after', by simpa using htr⟩

/-- A wake attempt writes nothing (rule R123). -/
theorem write_in_old_of_attempt {c : Config} {tr before after : List Event} {answer : ReadAnswer}
    {bytes : List Byte} {outcome : WriteAnswer}
    (h : tr ++ attemptEvents c answer = before ++ [.write bytes outcome] ++ after) :
    ∃ after', tr = before ++ [.write bytes outcome] ++ after' := by
  rcases event_in_old_or_new h with hold | ⟨mid, -, hnew⟩
  · exact hold
  · have hmem : Event.write bytes outcome ∈ attemptEvents c answer := by simp [hnew]
    simp [attemptEvents] at hmem

/-- The last event of a trace stands there with everything else before it, any other event in the old part. -/
theorem event_in_old_or_last {tr before after : List Event} {e last : Event}
    (h : tr ++ [last] = before ++ [e] ++ after) :
    (∃ after', tr = before ++ [e] ++ after') ∨ (before = tr ∧ e = last) := by
  refine (event_in_old_or_new h).imp_right fun ⟨mid, hbefore, hnew⟩ => ?_
  cases mid with
  | nil => exact ⟨by simpa using hbefore, by simpa using (List.cons_eq_cons.mp hnew).1.symm⟩
  | cons e' mid => simp at hnew

/-- Every write in a bus trace is an allowed one. -/
theorem BusTrace.writeAllowed {c : Config} {tr : List Event} (h : BusTrace c tr) {before after : List Event}
    {bytes : List Byte} {outcome : WriteAnswer} (htr : tr = before ++ [.write bytes outcome] ++ after) :
    WriteAllowed c before bytes := by
  induction h generalizing after with
  | empty => simp at htr
  | attempt tr answer _ _ ih =>
    obtain ⟨after', hold⟩ := write_in_old_of_attempt htr
    exact ih hold
  | idleFrame tr idleOutcome _ ih =>
    rcases event_in_old_or_last htr with ⟨after', hold⟩ | ⟨-, hlast⟩
    · exact ih hold
    · cases hlast
      exact .inl rfl
  | commandFrame tr op p1 p2 payload frameOutcome _ hfit ih =>
    rcases event_in_old_or_last htr with ⟨after', hold⟩ | ⟨rfl, hlast⟩
    · obtain ⟨after'', hold'⟩ := write_in_old_of_attempt hold
      exact ih hold'
    · cases hlast
      exact .inr ⟨op, p1, p2, payload, tr, rfl, hfit, rfl⟩

/-- Settles O41: the next state meets the invariant, whose trace is a bus trace. -/
theorem noCommandWithoutWake : Obligations.NoCommandWithoutWake := by
  unfold Obligations.NoCommandWithoutWake
  intro s t before after bytes outcome h hstep htrace
  exact (everyStepKeepsTheInvariant s t h hstep).trace.writeAllowed htrace

end Sys2Proof.Machine

/-! PROOF. Requests that run the handshake (rules R126, R127, R152, R241): SEND_COMMAND beside WAKE, how many events
they append, and the whole command cycle in a cooperative environment. -/

namespace Sys2Proof.Machine

/-- With the bus free WAKE does its own work (rule R205). -/
theorem exec_wake_of_busFree {s : State} (hfree : BusFree s) : exec .wake s = .next (wake s) := by
  obtain ⟨hrun, hout⟩ := hfree
  exact exec_next_iff.mpr ⟨hrun, .inr ⟨hout, rfl⟩⟩

/-- Settles O30: both endings of the one handshake. -/
theorem sendCommandIsWakeThenWrite : Obligations.SendCommandIsWakeThenWrite := by
  unfold Obligations.SendCommandIsWakeThenWrite
  intro op p1 p2 payload s hfree hc hl hfit
  refine ⟨wake s, exec_wake_of_busFree hfree, ?_⟩
  rw [exec_sendCommand_of_busFree hfree hl]
  rcases wakesAt_or_neverWakes s hc with ⟨k, hk⟩ | hnever
  · rw [wake_of_wakeHandshake (wakeHandshake_of_wakesAt hc hk), sendCommand_of_wakesAt hc hfit hk]
    refine .inr ⟨rfl, rfl, _, rfl, ?_⟩
    have hout : s.outstanding = false := hfree.2
    rcases transmit_cases (buildFrame s.config op p1 p2 payload) (afterHandshake k .awake s) with
      ⟨hw, h⟩ | ⟨hw, h⟩ <;>
    rw [afterHandshake_env] at hw <;> simp [h, hw, hout]
  · rw [wake_of_wakeHandshake (wakeHandshake_of_neverWakes hc hnever), sendCommand_of_neverWakes hc hfit hnever]
    exact .inl ⟨rfl, rfl⟩

theorem wake_trace_length (s : State) (hc : configValid s.config) :
    (NeverWakes s ∧ (wake s).trace.length = s.trace.length + 3 * s.config.wakeAttempts) ∨
    (∃ k, WakesAt s k ∧ (wake s).trace.length = s.trace.length + 3 * k) := by
  rcases wakeHandshake_cases s hc with ⟨k, hk, h⟩ | ⟨hnever, h⟩
  · exact .inr ⟨k, hk, by simp [wake, h, handshakeEvents_length]⟩
  · exact .inl ⟨hnever, by simp [wake, h, handshakeEvents_length]⟩

theorem idle_trace_length (s : State) : (idle s).trace.length = s.trace.length + 1 := by
  rcases idle_cases s with ⟨-, h⟩ | ⟨-, h⟩ <;> simp [h]

theorem sendCommand_trace_length (op p1 : Byte) (p2 : Half) (payload : List Byte) (s : State)
    (hc : configValid s.config) :
    let t := sendCommand op p1 p2 payload s
    (t.result = some ⟨.frameTooLarge, []⟩ ∧ t.trace.length = s.trace.length) ∨
    (t.result = some ⟨.wakeFailure, []⟩ ∧ t.trace.length = s.trace.length + 3 * s.config.wakeAttempts) ∨
    (∃ k, WakesAt s k ∧ t.trace.length = s.trace.length + (3 * k + 1)) := by
  rcases sendCommand_cases op p1 p2 payload s hc with h | ⟨-, h⟩ | ⟨k, hk, h⟩
  · exact .inl (by simp [h])
  · exact .inr (.inl (by simp [h, handshakeEvents_length]))
  · exact .inr (.inr ⟨k, hk, by simp [h, transmit_trace, handshakeEvents_length]⟩)

/-- Settles O36: a request that does not fault does its own work. -/
theorem eventCounts : Obligations.EventCounts := by
  unfold Obligations.EventCounts
  intro i s t hexec hc hfault
  obtain ⟨-, ⟨reason, rfl, -⟩ | ⟨rfl, -⟩⟩ := exec_next_cases hexec
  · simp at hfault
  · cases i with
    | wake => exact wake_trace_length s hc
    | idle => exact idle_trace_length s
    | sendCommand op p1 p2 payload => exact sendCommand_trace_length op p1 p2 payload s hc
    | crcClear | crcByte | crcCompute | checkResponse => rfl

/-! ### The command cycle -/

/-- WAKE_ACK holds four bytes under a valid configuration (rules R6, R124). -/
theorem wakeAck_length {c : Config} (hc : configValid c) : c.wakeAck.length = 4 := by
  obtain ⟨-, -, -, -, -, hok⟩ := hc
  rcases frameCheck_malformed_or_shape 4#8 c.wakeAck with hbad | ⟨count, data, crc, hr, hcrc, hdata, hlen, hmax⟩
  · simp [hbad] at hok
  · have hfour : count.toNat ≤ 4 := hmax
    rw [hr]
    simp
    omega

/-- A laid-down WAKE_ACK is read whole. -/
theorem nextRead_of_ack {c : Config} {e : Environment} {reads : List ReadAnswer} (hc : configValid c)
    (h : e.reads = .data c.wakeAck :: reads) : e.nextRead 4 = .data c.wakeAck := by
  have hlen := wakeAck_length hc
  have htake : c.wakeAck.take 4 = c.wakeAck := List.take_of_length_le (by omega)
  simp [Environment.nextRead, h, limitAnswer, htake]

/-- A handshake whose first read answers WAKE_ACK makes one attempt (rule R125). -/
theorem wakesAt_one {s : State} {reads : List ReadAnswer} (hc : configValid s.config)
    (h : s.env.reads = .data s.config.wakeAck :: reads) : WakesAt s 1 :=
  ⟨Nat.le_refl 1, one_le_wakeAttempts hc, nextRead_of_ack hc h, by omega⟩

theorem afterRead_of_reads {e : Environment} {a : ReadAnswer} {reads : List ReadAnswer} (h : e.reads = a :: reads) :
    e.afterRead = { e with reads := reads } := by
  simp [Environment.afterRead, h]

/-- `s` after a WAKE whose first read answered WAKE_ACK, with `reads` the answers left. -/
def awakened (reads : List ReadAnswer) (s : State) : State :=
  { s with
    belief := .awake
    trace := s.trace ++ attemptEvents s.config (.data s.config.wakeAck)
    env := { s.env with reads := reads }
    result := some ⟨.ok, s.config.wakeAck⟩ }

/-- `s` after a SEND_COMMAND that woke the chip at once and wrote `frame`, with `reads` and `writes` the answers
left. -/
def commanded (frame : List Byte) (reads : List ReadAnswer) (writes : List WriteAnswer) (s : State) : State :=
  { s with
    belief := .awake
    outstanding := true
    trace := s.trace ++ attemptEvents s.config (.data s.config.wakeAck) ++ [.write frame .ok]
    env := { s.env with reads := reads, writes := writes }
    result := some ⟨.ok, frame⟩ }

/-- `s` after an IDLE whose write answered `ok`, with `writes` the answers left. -/
def idled (writes : List WriteAnswer) (s : State) : State :=
  { s with
    belief := .idle
    trace := s.trace ++ [.write [s.config.waIdle] .ok]
    env := { s.env with writes := writes }
    result := some ⟨.ok, []⟩ }

/-- WAKE where the first read answers WAKE_ACK (rule R126). -/
theorem exec_wake_of_ack {s : State} {reads : List ReadAnswer} (hfree : BusFree s) (hc : configValid s.config)
    (h : s.env.reads = .data s.config.wakeAck :: reads) :
    exec .wake s = .next (awakened reads s) := by
  rw [exec_wake_of_busFree hfree, wake_of_wakeHandshake (wakeHandshake_of_wakesAt hc (wakesAt_one hc h))]
  simp [awakened, afterHandshake, handshakeEvents_succ, handshakeEvents_zero, readAt, afterReads, afterRead_of_reads h,
    nextRead_of_ack hc h]

/-- SEND_COMMAND where the first read answers WAKE_ACK and the first write `ok` (rule R152). -/
theorem exec_sendCommand_of_ack {s : State} {reads : List ReadAnswer} {writes : List WriteAnswer} {op : Byte}
    {payload : List Byte} (hfree : BusFree s) (hc : configValid s.config) (hl : payload.length ≤ 255)
    (hfit : payload.length ≤ maxPayloadOf s.config op) (hreads : s.env.reads = .data s.config.wakeAck :: reads)
    (hwrites : s.env.writes = .ok :: writes) (p1 : Byte) (p2 : Half) :
    exec (.sendCommand op p1 p2 payload) s =
      .next (commanded (buildFrame s.config op p1 p2 payload) reads writes s) := by
  rw [exec_sendCommand_of_busFree hfree hl, sendCommand_of_wakesAt hc hfit (wakesAt_one hc hreads)]
  simp [commanded, transmit, writeBytes, emit, returnResult, afterHandshake, handshakeEvents_succ,
    handshakeEvents_zero, readAt, afterReads, afterRead_of_reads hreads, nextRead_of_ack hc hreads,
    Environment.nextWrite, Environment.afterWrite, hwrites]

theorem exec_checkResponse_of_running {s : State} {bytes : List Byte} (hrun : Running s) (hl : bytes.length ≤ 255)
    (maxc : Byte) : exec (.checkResponse maxc bytes) s = .next (checkResponse maxc bytes s) :=
  exec_next_iff.mpr ⟨hrun, .inr ⟨hl, rfl⟩⟩

/-- IDLE where the first write answers `ok` (rule R128). -/
theorem exec_idle_of_ok {s : State} {writes : List WriteAnswer} (hfree : BusFree s)
    (hwrites : s.env.writes = .ok :: writes) :
    exec .idle s = .next (idled writes s) := by
  obtain ⟨hrun, hout⟩ := hfree
  refine exec_next_iff.mpr ⟨hrun, .inr ⟨hout, ?_⟩⟩
  simp [idled, idle, writeBytes, emit, returnResult, Environment.nextWrite, Environment.afterWrite, hwrites]

theorem execAll_cons {i : Instr} {rest : List Instr} {s t : State} (h : exec i s = .next t) :
    execAll (i :: rest) s = execAll rest t := by
  simp [execAll, h]

/-- Settles O42: the four requests one after another, each from the state the one before it leaves. -/
theorem commandCycleCompletes : Obligations.CommandCycleCompletes := by
  unfold Obligations.CommandCycleCompletes
  intro s op p1 p2 payload maxc response reads writes hfree hc hl hfit hresponse hreads hwrites
  have hrun : s.fault = none := hfree.1
  have hout : s.outstanding = false := hfree.2
  let s1 := awakened (.data s.config.wakeAck :: reads) s
  let s2 := commanded (buildFrame s.config op p1 p2 payload) reads (.ok :: writes) s1
  let s3 := checkResponse maxc response s2
  have hsend : exec (.sendCommand op p1 p2 payload) s1 = .next s2 :=
    exec_sendCommand_of_ack (s := s1) ⟨hrun, hout⟩ hc hl hfit rfl hwrites p1 p2
  calc execAll [.wake, .sendCommand op p1 p2 payload, .checkResponse maxc response, .idle] s
    _ = execAll [.sendCommand op p1 p2 payload, .checkResponse maxc response, .idle] s1 :=
      execAll_cons (exec_wake_of_ack hfree hc hreads)
    _ = execAll [.checkResponse maxc response, .idle] s2 := execAll_cons hsend
    _ = execAll [.idle] s3 := execAll_cons (exec_checkResponse_of_running (s := s2) hrun hresponse maxc)
    _ = .next (idled writes s3) := execAll_cons (exec_idle_of_ok (s := s3) ⟨hrun, rfl⟩ rfl)
    _ = _ := by simp [s3, s2, s1, idled, checkResponse, returnResult, commanded, awakened, hout]

end Sys2Proof.Machine

/-! PROOF. The CRC as a linear map on bit streams (rules R101, R108, R109, R111): the register bit by bit, linearity,
and the bits a register at the end of a stream gives away. -/

namespace Sys2Proof.Machine

/-! ### The CRC of a sequence as the CRC of its bits -/

theorem foldl_crcStep (bytes : List Byte) (c : Half) :
    bytes.foldl crcStep c = (bytes.flatMap bitsOf).foldl crcBit c := by
  induction bytes generalizing c with
  | nil => rfl
  | cons b bytes ih => rw [List.flatMap_cons, List.foldl_append, List.foldl_cons, ih]; rfl

theorem crc16_eq_foldl_crcBit (bytes : List Byte) : crc16 bytes = (bytes.flatMap bitsOf).foldl crcBit Config.crcInit :=
  foldl_crcStep bytes _

/-! ### CRC_COMPUTE and CRC_BYTE (rule R108) -/

/-- CRC_BYTE requests one after another fold the byte step over the register. -/
theorem execAll_crcByte (bytes : List Byte) {s : State} (hrun : Running s) (v : Half) :
    execAll (bytes.map .crcByte) (setCrc v s) = .next (setCrc (bytes.foldl crcStep v) s) := by
  induction bytes generalizing v with
  | nil => rfl
  | cons b bytes ih =>
    have hbyte : exec (.crcByte b) (setCrc v s) = .next (setCrc (crcStep v b) s) :=
      exec_next_iff.mpr ⟨hrun, rfl⟩
    rw [List.map_cons, execAll, hbyte]
    exact ih (crcStep v b)

/-- Settles O14: the register starts at CRC_INIT on both sides. -/
theorem crcComputeIsClearThenBytes : Obligations.CrcComputeIsClearThenBytes := by
  unfold Obligations.CrcComputeIsClearThenBytes
  intro bytes s hrun hl
  have hclear : exec .crcClear s = .next (setCrc Config.crcInit s) := exec_next_iff.mpr ⟨hrun, rfl⟩
  refine ⟨setCrc (crc16 bytes) s, exec_next_iff.mpr ⟨hrun, .inr ⟨hl, rfl⟩⟩, ?_⟩
  rw [execAll, hclear]
  exact execAll_crcByte bytes hrun Config.crcInit

/-! ### The register after one bit, bit by bit (rule R101) -/

/-- The feedback of one bit step, which the lowest bit of the next register shows. -/
theorem crcBit_getLsbD_zero (c : Half) (d : Bool) : (crcBit c d).getLsbD 0 = (d ^^ c.getLsbD 15) := by
  unfold crcBit
  split
  next h => simpa [Config.crcPoly] using h.symm
  next h => simpa using (eq_false_of_ne_true h).symm

/-- Every other bit is the one below it, with the polynomial's on feedback. -/
theorem crcBit_getLsbD_succ (c : Half) (d : Bool) {k : Nat} (hk : k + 1 < 16) :
    (crcBit c d).getLsbD (k + 1) = (c.getLsbD k ^^ ((d ^^ c.getLsbD 15) && Config.crcPoly.getLsbD (k + 1))) := by
  have hk' : k < 16 := by omega
  unfold crcBit
  split
  next h => rw [h]; simp [hk, BitVec.getLsbD_eq_getElem hk']
  next h => rw [eq_false_of_ne_true h]; simp [hk, BitVec.getLsbD_eq_getElem hk']

/-- One bit step is linear in the register and the bit. -/
theorem crcBit_xor (a b : Half) (d e : Bool) : crcBit (a ^^^ b) (d ^^ e) = crcBit a d ^^^ crcBit b e := by
  have hswap (p q r s : Bool) : ((p ^^ q) ^^ (r ^^ s)) = ((p ^^ r) ^^ (q ^^ s)) := by
    rw [Bool.xor_assoc, Bool.xor_left_comm q, ← Bool.xor_assoc]
  refine BitVec.eq_of_getLsbD_eq fun k hk => ?_
  cases k with
  | zero => simp only [BitVec.getLsbD_xor, crcBit_getLsbD_zero, hswap d e]
  | succ k =>
    simp only [BitVec.getLsbD_xor, crcBit_getLsbD_succ _ _ hk, hswap d e, Bool.and_xor_distrib_right]
    exact hswap _ _ _ _

/-! ### Linearity (rule R109) -/

/-- A fold by a step that is linear in the register and what it takes is linear over sequences of equal length. -/
theorem foldl_zipWith_xor {α : Type} {f : Half → α → Half} {g : α → α → α}
    (hf : ∀ x y a b, f (x ^^^ y) (g a b) = f x a ^^^ f y b) {as bs : List α} (h : as.length = bs.length)
    (x y : Half) :
    (List.zipWith g as bs).foldl f (x ^^^ y) = as.foldl f x ^^^ bs.foldl f y := by
  induction as generalizing bs x y with
  | nil =>
    obtain rfl : bs = [] := by simpa using h.symm
    rfl
  | cons a as ih =>
    obtain ⟨b, bs, rfl⟩ := List.exists_cons_of_length_eq_add_one h.symm
    rw [List.zipWith_cons_cons, List.foldl_cons, List.foldl_cons, List.foldl_cons, hf]
    exact ih (by simpa using h) _ _

theorem bitsOf_xor (a b : Byte) : bitsOf (a ^^^ b) = List.zipWith (· ^^ ·) (bitsOf a) (bitsOf b) := by
  simp [bitsOf]

/-- One byte step is linear, as its eight bit steps are. -/
theorem crcStep_xor (x y : Half) (a b : Byte) : crcStep (x ^^^ y) (a ^^^ b) = crcStep x a ^^^ crcStep y b := by
  unfold crcStep
  rw [bitsOf_xor]
  exact foldl_zipWith_xor crcBit_xor (as := bitsOf a) (bs := bitsOf b) rfl x y

theorem crc16_xor {a b : List Byte} (h : a.length = b.length) :
    crc16 (List.zipWith (· ^^^ ·) a b) = crc16 a ^^^ crc16 b :=
  foldl_zipWith_xor crcStep_xor h Config.crcInit Config.crcInit

/-- Settles O15: each bit step is linear, and a sequence of zeros is the XOR of itself with itself. -/
theorem crcIsLinear : Obligations.CrcIsLinear := by
  unfold Obligations.CrcIsLinear
  refine ⟨fun a b => crc16_xor, fun n => ?_⟩
  have hself := crc16_xor (a := List.replicate n 0x00) (b := List.replicate n 0x00) rfl
  simpa using hself

/-! ### Bursts (rule R111) -/

/-- The two registers agree on their `m` lowest bits. -/
def AgreeBelow (m : Nat) (x y : Half) : Prop := ∀ k, k < m → x.getLsbD k = y.getLsbD k

theorem eq_of_agreeBelow {x y : Half} (h : AgreeBelow 16 x y) : x = y := BitVec.eq_of_getLsbD_eq h

/-- The lowest bit after a step gives away the feedback, the `m` bits above it the `m` lowest bits before the step. -/
theorem AgreeBelow.before_crcBit {m : Nat} {x y : Half} {d e : Bool} (hm : m + 1 ≤ 16)
    (h : AgreeBelow (m + 1) (crcBit x d) (crcBit y e)) :
    (d ^^ x.getLsbD 15) = (e ^^ y.getLsbD 15) ∧ AgreeBelow m x y := by
  have hfeedback : (d ^^ x.getLsbD 15) = (e ^^ y.getLsbD 15) := by
    simpa only [crcBit_getLsbD_zero] using h 0 (by omega)
  refine ⟨hfeedback, fun k hk => ?_⟩
  have hbit := h (k + 1) (by omega)
  rw [crcBit_getLsbD_succ _ _ (by omega), crcBit_getLsbD_succ _ _ (by omega), hfeedback] at hbit
  exact Bool.xor_left_inj.mp hbit

/-- Streams of `n` bits that lead to registers alike on `m + n` bits come from registers alike on `m`. -/
theorem AgreeBelow.before_foldl {m : Nat} {as bs : List Bool} (hlen : as.length = bs.length) {x y : Half}
    (hm : m + as.length ≤ 16) (h : AgreeBelow (m + as.length) (as.foldl crcBit x) (bs.foldl crcBit y)) :
    AgreeBelow m x y := by
  induction as generalizing bs m x y with
  | nil =>
    obtain rfl : bs = [] := by simpa using hlen.symm
    exact h
  | cons a as ih =>
    obtain ⟨b, bs, rfl⟩ := List.exists_cons_of_length_eq_add_one hlen.symm
    rw [List.length_cons, Nat.add_comm as.length, ← Nat.add_assoc] at hm h
    exact (AgreeBelow.before_crcBit (by omega) (ih (by simpa using hlen) hm h)).2

/-- From one register, streams of at most 16 bits that end in one register are the same. -/
theorem eq_of_foldl_crcBit_eq {as bs : List Bool} (hlen : as.length = bs.length) (hmax : as.length ≤ 16) {c : Half}
    (h : as.foldl crcBit c = bs.foldl crcBit c) : as = bs := by
  induction as generalizing bs c with
  | nil => simpa using hlen.symm
  | cons a as ih =>
    obtain ⟨b, bs, rfl⟩ := List.exists_cons_of_length_eq_add_one hlen.symm
    have hlen' : as.length = bs.length := by simpa using hlen
    rw [List.length_cons] at hmax
    have hfirst : AgreeBelow (0 + 1) (crcBit c a) (crcBit c b) :=
      AgreeBelow.before_foldl hlen' (by omega) fun k _ => congrArg (BitVec.getLsbD · k) h
    obtain rfl : a = b := Bool.xor_left_inj.mp (hfirst.before_crcBit (by omega)).1
    rw [ih hlen' (by omega) h]

/-- A bit step loses nothing of the register: the feedback and the incoming bit give its highest bit. -/
theorem crcBit_injective (d : Bool) : Function.Injective (crcBit · d) := by
  intro x y h
  obtain ⟨hfeedback, hlow⟩ := AgreeBelow.before_crcBit (m := 15) (x := x) (y := y) (d := d) (e := d) (by omega)
    fun k _ => congrArg (BitVec.getLsbD · k) h
  refine eq_of_agreeBelow fun k hk => ?_
  rcases Nat.lt_or_eq_of_le (Nat.le_of_lt_succ hk) with hk | rfl
  · exact hlow k hk
  · exact Bool.xor_right_inj.mp hfeedback

theorem foldl_crcBit_injective (bits : List Bool) : Function.Injective (bits.foldl crcBit ·) := by
  induction bits with
  | nil => exact fun _ _ h => h
  | cons d bits ih => exact fun x y h => crcBit_injective d (ih h)

/-- A burst of at most 16 bits shows in the register, whatever comes before it and after it. -/
theorem foldl_crcBit_burst (c : Half) (before after : List Bool) {a b : List Bool} (hlen : a.length = b.length)
    (hmax : a.length ≤ 16) (hne : a ≠ b) :
    (before ++ a ++ after).foldl crcBit c ≠ (before ++ b ++ after).foldl crcBit c := by
  intro h
  simp only [List.foldl_append] at h
  exact hne (eq_of_foldl_crcBit_eq hlen hmax (foldl_crcBit_injective after h))

theorem bitsOf_injective : Function.Injective bitsOf := by
  intro a b h
  refine BitVec.eq_of_getLsbD_eq fun k hk => ?_
  rw [bitsOf_eq_map_range, bitsOf_eq_map_range] at h
  exact List.map_inj_left.mp h k (List.mem_range.mpr hk)

/-- A change of one byte is a burst of eight bits. -/
theorem crc16_ne_of_byte_ne (before after : List Byte) {a b : Byte} (hne : a ≠ b) :
    crc16 (before ++ a :: after) ≠ crc16 (before ++ b :: after) := by
  have hburst := foldl_crcBit_burst Config.crcInit (before.flatMap bitsOf) (after.flatMap bitsOf)
    (a := bitsOf a) (b := bitsOf b) rfl (by simp [bitsOf]) (bitsOf_injective.ne hne)
  simpa [crc16_eq_foldl_crcBit] using hburst

/-- Settles O17: the byte change is a burst of the bit stream. -/
theorem crcDetectsShortBursts : Obligations.CrcDetectsShortBursts := by
  unfold Obligations.CrcDetectsShortBursts
  exact ⟨fun c before a b after hlen hmax hne => foldl_crcBit_burst c before after hlen hmax hne,
    fun before after a b hne => crc16_ne_of_byte_ne before after hne⟩

end Sys2Proof.Machine

/-! PROOF. The CRC as a polynomial remainder (rules R42, R100, R101): the register as a polynomial over GF(2), and one
bit step as a multiplication by x that leaves the remainder. -/

namespace Sys2Proof.Machine

section PolynomialMeaning

open Polynomial

/-- A bit as a constant polynomial over GF(2). -/
noncomputable def bitPoly (b : Bool) : (ZMod 2)[X] := if b then 1 else 0

/-- The register as a polynomial, bit `k` the coefficient of `X ^ k`. -/
noncomputable def registerPoly (c : Half) : (ZMod 2)[X] := ∑ k ∈ Finset.range 16, bitPoly (c.getLsbD k) * X ^ k

/-- The generator polynomial: the bits of CRC_POLY and `X ^ 16` (rule R100). -/
noncomputable def generatorPoly : (ZMod 2)[X] := X ^ 16 + X ^ 15 + X ^ 2 + 1

theorem bitPoly_xor (a b : Bool) : bitPoly (a ^^ b) = bitPoly a + bitPoly b := by
  cases a <;> cases b <;> simp [bitPoly, CharTwo.add_self_eq_zero]

theorem bitPoly_and (a b : Bool) : bitPoly (a && b) = bitPoly a * bitPoly b := by
  cases a <;> simp [bitPoly]

/-- The bits of CRC_POLY above the lowest, beside `1` and `X ^ 16` the terms of the generator (rules R6, R100). -/
theorem generatorPoly_eq_sum :
    generatorPoly = 1 + ∑ k ∈ Finset.range 15, bitPoly (Config.crcPoly.getLsbD (k + 1)) * X ^ (k + 1) + X ^ 16 := by
  have hsum : ∑ k ∈ Finset.range 15, bitPoly (Config.crcPoly.getLsbD (k + 1)) * X ^ (k + 1) = X ^ 2 + X ^ 15 := by
    simp [Finset.sum_range_succ, Config.crcPoly, bitPoly]
  rw [hsum, generatorPoly]
  ring

/-- The bits of a register one place up, the highest split off. -/
theorem X_mul_registerPoly (c : Half) :
    X * registerPoly c =
      ∑ k ∈ Finset.range 15, bitPoly (c.getLsbD k) * X ^ (k + 1) + bitPoly (c.getLsbD 15) * X ^ 16 := by
  have hshift (b : Bool) (k : Nat) : X * (bitPoly b * X ^ k) = bitPoly b * X ^ (k + 1) := by ring
  rw [registerPoly, Finset.mul_sum]
  simp only [hshift]
  exact Finset.sum_range_succ _ 15

/-- One bit step multiplies the register by `X`, adds the bit at `X ^ 16` and, on feedback, the generator
(rule R101). -/
theorem registerPoly_crcBit (c : Half) (d : Bool) :
    registerPoly (crcBit c d) =
      X * registerPoly c + bitPoly d * X ^ 16 + bitPoly (d ^^ c.getLsbD 15) * generatorPoly := by
  have hbits : ∑ k ∈ Finset.range 15, bitPoly ((crcBit c d).getLsbD (k + 1)) * X ^ (k + 1) =
      ∑ k ∈ Finset.range 15, bitPoly (c.getLsbD k) * X ^ (k + 1) +
        bitPoly (d ^^ c.getLsbD 15) *
          ∑ k ∈ Finset.range 15, bitPoly (Config.crcPoly.getLsbD (k + 1)) * X ^ (k + 1) := by
    rw [Finset.mul_sum, ← Finset.sum_add_distrib]
    refine Finset.sum_congr rfl fun k hk => ?_
    rw [crcBit_getLsbD_succ c d (by have := Finset.mem_range.mp hk; omega), bitPoly_xor, bitPoly_and]
    ring
  have htwo : bitPoly d * X ^ 16 + bitPoly d * X ^ 16 = 0 := CharTwo.add_self_eq_zero _
  have htwo' : bitPoly (c.getLsbD 15) * X ^ 16 + bitPoly (c.getLsbD 15) * X ^ 16 = 0 := CharTwo.add_self_eq_zero _
  rw [registerPoly, Finset.sum_range_succ', hbits, crcBit_getLsbD_zero, X_mul_registerPoly, generatorPoly_eq_sum,
    bitPoly_xor]
  linear_combination -htwo - htwo'

/-- A bit stream behind a polynomial, each bit after the higher powers (rule R42). -/
noncomputable def appendBits (m : (ZMod 2)[X]) (bits : List Bool) : (ZMod 2)[X] :=
  bits.foldl (fun m b => m * X + bitPoly b) m

/-- Bits taken into the message and into the register keep the register the remainder. -/
theorem generatorPoly_dvd_foldl (bits : List Bool) (m : (ZMod 2)[X]) (c : Half)
    (h : generatorPoly ∣ m * X ^ 16 + registerPoly c) :
    generatorPoly ∣ appendBits m bits * X ^ 16 + registerPoly (bits.foldl crcBit c) := by
  induction bits generalizing m c with
  | nil => exact h
  | cons d bits ih =>
    refine ih (m * X + bitPoly d) (crcBit c d) ?_
    have htwo : bitPoly d * X ^ 16 + bitPoly d * X ^ 16 = 0 := CharTwo.add_self_eq_zero _
    have hstep : (m * X + bitPoly d) * X ^ 16 + registerPoly (crcBit c d) =
        X * (m * X ^ 16 + registerPoly c) + bitPoly (d ^^ c.getLsbD 15) * generatorPoly := by
      rw [registerPoly_crcBit]
      linear_combination htwo
    rw [hstep]
    exact dvd_add (h.mul_left X) (dvd_mul_left _ _)

theorem registerPoly_crcInit : registerPoly Config.crcInit = 0 := by
  simp [registerPoly, Config.crcInit, bitPoly]

end PolynomialMeaning

/-- Settles O16: the empty message and the register 0x0000 are alike, and each bit keeps the remainder. -/
theorem crcIsPolynomialRemainder : Obligations.CrcIsPolynomialRemainder := by
  unfold Obligations.CrcIsPolynomialRemainder
  intro s
  have hdvd := generatorPoly_dvd_foldl (s.flatMap bitsOf) 0 Config.crcInit (by simp [registerPoly_crcInit])
  rw [← crc16_eq_foldl_crcBit] at hdvd
  simpa [registerPoly, bitPoly, appendBits, generatorPoly] using hdvd

end Sys2Proof.Machine

/-! PROOF. Corruption of response frames (rule R183): one byte changed leaves the count wrong, or the shape right and
the CRC wrong. -/

namespace Sys2Proof.Machine

/-- What the check accepts has the shape of a frame, and its last two bytes are the CRC (rule R180). -/
theorem shape_of_frameCheck_ok {maxc : Byte} {r : List Byte} (h : (frameCheck maxc r).code = .ok) :
    ∃ count data crc, FrameShape maxc r count data crc ∧ le16 (crc16 (count :: data)) = crc := by
  rcases frameCheck_malformed_or_shape maxc r with hbad | ⟨count, data, crc, hshape⟩
  · simp [hbad] at h
  · rw [frameCheck_of_shape hshape] at h
    split at h
    next hcrc => exact ⟨count, data, crc, hshape, hcrc⟩
    next => cases h

/-- A sequence with one byte replaced has another CRC (rule R111). -/
theorem crc16_set_ne {s : List Byte} {k : Nat} (hk : k < s.length) {b : Byte} (hb : s.getD k 0 ≠ b) :
    crc16 (s.set k b) ≠ crc16 s := by
  have hold : s = s.take k ++ s.getD k 0 :: s.drop (k + 1) := by simp [hk]
  rw [List.set_eq_take_append_cons_drop, if_pos hk]
  conv_rhs => rw [hold]
  exact crc16_ne_of_byte_ne _ _ hb.symm

/-- What has the shape of a frame and other last bytes than its CRC is a checksum mismatch (rule R180). -/
theorem frameCheck_of_crc_ne {maxc count : Byte} {r data crc : List Byte} (hshape : FrameShape maxc r count data crc)
    (hne : le16 (crc16 (count :: data)) ≠ crc) : frameCheck maxc r = ⟨.checksumMismatch, []⟩ := by
  rw [frameCheck_of_shape hshape, if_neg hne]

section Corruption

variable {maxc count : Byte} {r data crc : List Byte} (hshape : FrameShape maxc r count data crc)
  (hcrc : le16 (crc16 (count :: data)) = crc)

include hshape

/-- A changed count is not the length any more. -/
theorem frameCheck_set_count {b : Byte} (hb : count ≠ b) :
    frameCheck maxc (r.set 0 b) = ⟨.malformedResponse, []⟩ := by
  obtain ⟨rfl, hcrclen, -, hlen, -⟩ := hshape
  have hnat : count.toNat ≠ b.toNat := fun h => hb (BitVec.eq_of_toNat_eq h)
  have htotal : (data ++ crc).length + 1 = count.toNat := by simp; omega
  exact frameCheck_of_bad_count (.inr (.inr fun h => hnat (htotal.symm.trans h)))

include hcrc

/-- A changed data byte changes the CRC of count and data (rule R111). -/
theorem frameCheck_set_data {j : Nat} (hj : j < data.length) {b : Byte} (hb : data.getD j 0 ≠ b) :
    frameCheck maxc (r.set (j + 1) b) = ⟨.checksumMismatch, []⟩ := by
  obtain ⟨rfl, hcrclen, hdata, hlen, hmax⟩ := hshape
  have hshape' : FrameShape maxc ((count :: data ++ crc).set (j + 1) b) count (data.set j b) crc :=
    ⟨by simp [List.set_append_left _ _ hj], hcrclen, by simpa using hdata, by simpa using hlen, hmax⟩
  refine frameCheck_of_crc_ne hshape' fun heq => ?_
  have hne : crc16 ((count :: data).set (j + 1) b) ≠ crc16 (count :: data) := crc16_set_ne (by simpa using hj) hb
  exact hne (le16_injective (heq.trans hcrc.symm))

/-- A changed CRC byte is not the frame's CRC any more. -/
theorem frameCheck_set_crc {j : Nat} (hj : j < crc.length) {b : Byte} (hb : crc.getD j 0 ≠ b) :
    frameCheck maxc (r.set (data.length + j + 1) b) = ⟨.checksumMismatch, []⟩ := by
  obtain ⟨rfl, hcrclen, hdata, hlen, hmax⟩ := hshape
  have hshape' : FrameShape maxc ((count :: data ++ crc).set (data.length + j + 1) b) count data (crc.set j b) :=
    ⟨by simp [List.set_append_right], by simpa using hcrclen, hdata, hlen, hmax⟩
  refine frameCheck_of_crc_ne hshape' fun heq => hb ?_
  have hself : crc.set j b = crc := heq.symm.trans hcrc
  rw [← hself]
  simp [hj]

end Corruption

/-- Settles O21: the changed byte is the count, a data byte or a CRC byte. -/
theorem oneByteCorruptionIsRejected : Obligations.OneByteCorruptionIsRejected := by
  unfold Obligations.OneByteCorruptionIsRejected
  intro maxc r k b hok hk hb
  obtain ⟨count, data, crc, hshape, hcrc⟩ := shape_of_frameCheck_ok hok
  have hr : r = count :: (data ++ crc) := hshape.1
  cases k with
  | zero => exact frameCheck_set_count hshape (by simpa [hr] using hb)
  | succ j =>
    rw [if_neg (Nat.succ_ne_zero j)]
    by_cases hj : j < data.length
    · exact frameCheck_set_data hshape hcrc hj (by simpa [hr, hj, List.getElem?_append_left] using hb)
    · obtain ⟨i, rfl⟩ := Nat.exists_eq_add_of_le (Nat.not_lt.mp hj)
      exact frameCheck_set_crc hshape hcrc (by simpa [hr] using hk) (by simpa [hr, List.getElem?_append_right] using hb)

end Sys2Proof.Machine
